-- ==== Sys2Proof/Word.lean ====
section
/-!
DEFINITION. The word types of PCBS and the two number types of the converter.

Byte: sensor register data, register addresses, the slave address and command operands (R8).
CmdWord: the 24-bit command word of format CMD24 (R75).  Word32: ACC and RSP_DATA (R26, R30).
Frac and B32 are the exact reals and the binary32 values of R17.
-/

namespace Sys2Proof

/-- An 8-bit value (R8, R14). -/
abbrev Byte := BitVec 8

/-- A 24-bit command word (R75). -/
abbrev CmdWord := BitVec 24

/-- A 32-bit register value: ACC (R26), RSP_DATA (R30). -/
abbrev Word32 := BitVec 32

/-- An exact rational `num / den`, not reduced: the reals `q` that R17 rounds.
It stands for a number only when `den` is not 0. -/
structure Frac where
  num : Int
  den : Nat
  deriving DecidableEq, Repr

/-- A finite IEEE 754 binary32 value: `mant * 2 ^ exp`, negated when `neg` (R142).
`mant` has at most 24 bits. -/
structure B32 where
  neg  : Bool
  mant : Nat
  exp  : Int
  deriving DecidableEq, Repr

end Sys2Proof
end

