-- ==== Sys2Proof/Syntax.lean ====
section
/-!
DEFINITION. The 24 PCBS commands (R78), one constructor per row of spec/opcode_table.json.

A constructor holds the operand bytes its command reads (R77).  Operand bytes that R77 marks
"ignored" have no effect of any kind (R79), so they are no part of a command; the latched command
word CMD keeps them.
-/

namespace Sys2Proof

/-- A PCBS command.  The name in quotation marks is the source's entry point (R19). -/
inductive Instr where
  /-- INIT_SPI, "initSpi" (R96) -/
  | initSpi
  /-- INIT_I2C, "initI2c": OP1 is the slave address (R97) -/
  | initI2c (slave : Byte)
  /-- READ_REG, "readRegister": OP1 is the register address (R98) -/
  | readReg (addr : Byte)
  /-- WRITE_REG, "writeRegister": OP1 is the register address, OP2 the value (R99) -/
  | writeReg (addr value : Byte)
  /-- ENABLE, "enable" (R106) -/
  | enable
  /-- POWER_DOWN, "powerDown" (R107) -/
  | powerDown
  /-- SET_ODR, "setOutputDataRate": OP1 is the rate (R108) -/
  | setOdr (rate : Byte)
  /-- INT_CIRCUIT_ON, "enableInterruptCircuit" (R109) -/
  | intCircuitOn
  /-- INT_CIRCUIT_OFF, "disableInterrupt" (R110) -/
  | intCircuitOff
  /-- BDU_ON, "blockDataUpdate" (R111) -/
  | bduOn
  /-- BDU_OFF, "unblockDataUpdate" (R112) -/
  | bduOff
  /-- DELTA_ON, "enableDeltaPressure" (R113) -/
  | deltaOn
  /-- DELTA_OFF, "disableDeltaPressure" (R114) -/
  | deltaOff
  /-- SPI_IF_MODE, "spiSerialInterfaceMode": OP1 is the mode, which must be 3 or 4 (R115) -/
  | spiIfMode (mode : Byte)
  /-- REBOOT_MODE, "rebootMemoryMode": OP1 is the mode (R116) -/
  | rebootMode (mode : Byte)
  /-- SOFT_RESET, "softReset" (R117) -/
  | softReset
  /-- SET_INT_CFG, "setInterruptConfig": OP1 is the OR value (R118) -/
  | setIntCfg (value : Byte)
  /-- SET_CONFIG, "setConfiguration": OP1 is the OR value (R119) -/
  | setConfig (value : Byte)
  /-- GET_CONFIG, "getConfiguration" (R120) -/
  | getConfig
  /-- READ_ID, "readID" (R121) -/
  | readId
  /-- GET_INT_STATE, "getInterruptState" (R122) -/
  | getIntState
  /-- DEFAULT_CONFIG, "defaultConfig" (R123) -/
  | defaultConfig
  /-- GET_PRESSURE, "getPressure" (R143) -/
  | getPressure
  /-- GET_TEMPERATURE, "getTemperature" (R145) -/
  | getTemperature
  deriving DecidableEq, Repr

/-- Why the decoder rejects a command word (R82: ILLEGAL). -/
inductive Reject where
  /-- OPC is none of the 24 opcodes of R78 (R80) -/
  | illegalOpcode (opc : Byte)
  deriving DecidableEq, Repr

end Sys2Proof
end

