-- ==== Sys2Proof/Decode.lean ====
section
/-!
DEFINITION. Decoding a command word (R75 to R82) and, after it, encoding one (R78, R85).
-/

namespace Sys2Proof

/-- OPC, bits 23:16 of a command word (R75). -/
def opcOf (w : CmdWord) : Byte := w.extractLsb' 16 8

/-- OP1, bits 15:8 (R75). -/
def op1Of (w : CmdWord) : Byte := w.extractLsb' 8 8

/-- OP2, bits 7:0 (R75). -/
def op2Of (w : CmdWord) : Byte := w.extractLsb' 0 8

/-- The decoder of R82, total on all 2^24 words: the opcode map of R78, matched on OPC alone. -/
def decode (w : CmdWord) : Except Reject Instr :=
  match (opcOf w).toNat with
  | 0x01 => .ok .initSpi
  | 0x02 => .ok (.initI2c (op1Of w))
  | 0x10 => .ok (.readReg (op1Of w))
  | 0x11 => .ok (.writeReg (op1Of w) (op2Of w))
  | 0x20 => .ok .enable
  | 0x21 => .ok .powerDown
  | 0x22 => .ok (.setOdr (op1Of w))
  | 0x23 => .ok .intCircuitOn
  | 0x24 => .ok .intCircuitOff
  | 0x25 => .ok .bduOn
  | 0x26 => .ok .bduOff
  | 0x27 => .ok .deltaOn
  | 0x28 => .ok .deltaOff
  | 0x29 => .ok (.spiIfMode (op1Of w))
  | 0x30 => .ok (.rebootMode (op1Of w))
  | 0x31 => .ok .softReset
  | 0x32 => .ok (.setIntCfg (op1Of w))
  | 0x40 => .ok (.setConfig (op1Of w))
  | 0x41 => .ok .getConfig
  | 0x42 => .ok .readId
  | 0x43 => .ok .getIntState
  | 0x50 => .ok .defaultConfig
  | 0x60 => .ok .getPressure
  | 0x61 => .ok .getTemperature
  | _    => .error (.illegalOpcode (opcOf w))

/-- The opcode of each command (R78). -/
def Instr.opcode : Instr → Byte
  | .initSpi => 0x01#8
  | .initI2c _ => 0x02#8
  | .readReg _ => 0x10#8
  | .writeReg _ _ => 0x11#8
  | .enable => 0x20#8
  | .powerDown => 0x21#8
  | .setOdr _ => 0x22#8
  | .intCircuitOn => 0x23#8
  | .intCircuitOff => 0x24#8
  | .bduOn => 0x25#8
  | .bduOff => 0x26#8
  | .deltaOn => 0x27#8
  | .deltaOff => 0x28#8
  | .spiIfMode _ => 0x29#8
  | .rebootMode _ => 0x30#8
  | .softReset => 0x31#8
  | .setIntCfg _ => 0x32#8
  | .setConfig _ => 0x40#8
  | .getConfig => 0x41#8
  | .readId => 0x42#8
  | .getIntState => 0x43#8
  | .defaultConfig => 0x50#8
  | .getPressure => 0x60#8
  | .getTemperature => 0x61#8

/-- OP1 and OP2 as the assembler writes them: an ignored operand assembles as 0x00 (R77, R85). -/
def Instr.operands : Instr → Byte × Byte
  | .initI2c slave => (slave, 0#8)
  | .readReg addr => (addr, 0#8)
  | .writeReg addr value => (addr, value)
  | .setOdr rate => (rate, 0#8)
  | .spiIfMode mode => (mode, 0#8)
  | .rebootMode mode => (mode, 0#8)
  | .setIntCfg value => (value, 0#8)
  | .setConfig value => (value, 0#8)
  | .initSpi | .enable | .powerDown | .intCircuitOn | .intCircuitOff => (0#8, 0#8)
  | .bduOn | .bduOff | .deltaOn | .deltaOff | .softReset => (0#8, 0#8)
  | .getConfig | .readId | .getIntState | .defaultConfig => (0#8, 0#8)
  | .getPressure | .getTemperature => (0#8, 0#8)

/-- The CMD24 word with the given fields (R75). -/
def cmdWord (opc op1 op2 : Byte) : CmdWord := opc ++ op1 ++ op2

/-- The word a command assembles to (R75, R78, R85). -/
def encode (i : Instr) : CmdWord := cmdWord i.opcode i.operands.1 i.operands.2

/-- The command the decoder reads from the word of an opcode-table row whose `nbits` low bits are
`w`; every bit above them is 0.  Every command is one 24-bit word (R76), so no byte order enters. -/
def decodeTableWord (nbits w : Nat) : Option Instr :=
  match decode (BitVec.ofNat 24 (w % 2 ^ nbits)) with
  | .ok i => some i
  | .error _ => none

/-- The mnemonic of R78. -/
def Instr.mnemonic : Instr → String
  | .initSpi => "INIT_SPI"
  | .initI2c _ => "INIT_I2C"
  | .readReg _ => "READ_REG"
  | .writeReg _ _ => "WRITE_REG"
  | .enable => "ENABLE"
  | .powerDown => "POWER_DOWN"
  | .setOdr _ => "SET_ODR"
  | .intCircuitOn => "INT_CIRCUIT_ON"
  | .intCircuitOff => "INT_CIRCUIT_OFF"
  | .bduOn => "BDU_ON"
  | .bduOff => "BDU_OFF"
  | .deltaOn => "DELTA_ON"
  | .deltaOff => "DELTA_OFF"
  | .spiIfMode _ => "SPI_IF_MODE"
  | .rebootMode _ => "REBOOT_MODE"
  | .softReset => "SOFT_RESET"
  | .setIntCfg _ => "SET_INT_CFG"
  | .setConfig _ => "SET_CONFIG"
  | .getConfig => "GET_CONFIG"
  | .readId => "READ_ID"
  | .getIntState => "GET_INT_STATE"
  | .defaultConfig => "DEFAULT_CONFIG"
  | .getPressure => "GET_PRESSURE"
  | .getTemperature => "GET_TEMPERATURE"

/-- The operands the textual form of a command writes (R85: an ignored operand is not written). -/
def Instr.written : Instr → List Byte
  | .initI2c slave => [slave]
  | .readReg addr => [addr]
  | .writeReg addr value => [addr, value]
  | .setOdr rate => [rate]
  | .spiIfMode mode => [mode]
  | .rebootMode mode => [mode]
  | .setIntCfg value => [value]
  | .setConfig value => [value]
  | .initSpi | .enable | .powerDown | .intCircuitOn | .intCircuitOff => []
  | .bduOn | .bduOff | .deltaOn | .deltaOff | .softReset => []
  | .getConfig | .readId | .getIntState | .defaultConfig => []
  | .getPressure | .getTemperature => []

/-- One hexadecimal digit, in capitals. -/
def hexDigit (n : Nat) : String :=
  (["0", "1", "2", "3", "4", "5", "6", "7", "8", "9", "A", "B", "C", "D", "E", "F"][n]?).getD "?"

/-- A byte written as `0xNN` (R14). -/
def hexByte (b : Byte) : String := "0x" ++ hexDigit (b.toNat / 16) ++ hexDigit (b.toNat % 16)

/-- The textual form of a command, operands in hexadecimal (R85). -/
def Instr.text (i : Instr) : String :=
  match i.written with
  | [] => i.mnemonic
  | [op1] => i.mnemonic ++ " " ++ hexByte op1
  | op1 :: op2 :: _ => i.mnemonic ++ " " ++ hexByte op1 ++ ", " ++ hexByte op2

end Sys2Proof
end

