-- ==== Sys2Proof/Config.lean ====
section
/-!
DEFINITION. The implementation parameters of PCBS-1 (R13) and the free values.

R13: a model of PCBS-1 is a function of the ten register addresses of R10, TEMP_EVAL (R11) and
CORRECTED_INT_CFG (R12).  They are the fields of Config.  State carries one Config, which no
instruction writes, so every statement about all states is a statement about all parameters
(log entry 1).
-/

namespace Sys2Proof

/-- TEMP_EVAL, the temperature evaluation order (R11, R146). -/
inductive TempEval where
  | stepwiseB32        -- STEPWISE_B32, the default
  | correctlyRounded   -- CORRECTLY_ROUNDED
  deriving DecidableEq, Repr

/-- The parameters of R13. -/
structure Config where
  raResConfig  : Byte   -- RA_RES_CONFIG
  raCtrlReg1   : Byte   -- RA_CTRL_REG1
  raCtrlReg2   : Byte   -- RA_CTRL_REG2
  raIntCfgReg  : Byte   -- RA_INT_CFG_REG
  raDeviceId   : Byte   -- RA_DEVICE_ID_REG
  raPressXlsb  : Byte   -- RA_PRESS_XLSB
  raPressLsb   : Byte   -- RA_PRESS_LSB
  raPressMsb   : Byte   -- RA_PRESS_MSB
  raTempLsb    : Byte   -- RA_TEMP_LSB
  raTempMsb    : Byte   -- RA_TEMP_MSB
  tempEval     : TempEval
  correctedIntCfg : Bool
  deriving DecidableEq, Repr

/-- The default values of R10, R11 and R12.  R10 marks the ten addresses as general knowledge, not
source: no statement may rest on them (PRESUMED, log entry 1). -/
def Config.default : Config where
  raResConfig := 0x10#8
  raCtrlReg1 := 0x20#8
  raCtrlReg2 := 0x21#8
  raIntCfgReg := 0x23#8
  raDeviceId := 0x0F#8
  raPressXlsb := 0x28#8
  raPressLsb := 0x29#8
  raPressMsb := 0x2A#8
  raTempLsb := 0x2B#8
  raTempMsb := 0x2C#8
  tempEval := .stepwiseB32
  correctedIntCfg := false

/-- The byte of the n-th draw (R47), where the state scripts none: a free value, under no law
(log entry 2). -/
opaque Config.freeByte : Nat → Byte

/-- The pin level of the n-th draw (R58), where the state scripts none: a free value, under no law
(log entry 2). -/
opaque Config.freeLevel : Nat → Bool

end Sys2Proof
end

