-- ==== Sys2Proof/Machine/Flags.lean ====
section
/-!
DEFINITION. The one status flag of PCBS, FAIL (R28, R32), and the results that are single bits (R81).
-/

namespace Sys2Proof.Machine

/-- FAIL after one check of DEFAULT_CONFIG: set when the byte read mismatches (R123). -/
def failAfter (expected tmp : Byte) (fail : Bool) : Bool := fail || tmp != expected

/-- The BOOL result of DEFAULT_CONFIG, NOT FAIL: 1 for true, 0 for false (R81, R123). -/
def boolResult (fail : Bool) : Word32 := if fail then 0#32 else 1#32

/-- The BIT result: the pin level (R81, R122). -/
def bitResult (level : Bool) : Word32 := if level then 1#32 else 0#32

end Sys2Proof.Machine
end

