-- ==== Sys2Proof/Machine/Operands.lean ====
section
/-!
DEFINITION. Every operand form of PCBS: the address byte of each framing (R83), the raw-sample
assembly (R140, R141), and the write function f of each read-modify-write command (R105 to R119).
-/

namespace Sys2Proof.Machine

/-- The SPI address byte of a read: bit 6 cleared (R56, R83). -/
def spiReadAddr (a : Byte) : Byte := a &&& 0xBF#8

/-- The SPI address byte of a write: bit 7 cleared (R57, R83). -/
def spiWriteAddr (a : Byte) : Byte := a &&& 0x7F#8

/-- `zext_32` of a byte (R14). -/
def zext32 (b : Byte) : Word32 := b.setWidth 32

/-- ENABLE sets bit 7 (R106). -/
def fEnable (t : Byte) : Byte := t ||| 0x80#8

/-- POWER_DOWN clears bit 7 (R107). -/
def fPowerDown (t : Byte) : Byte := t &&& 0x7F#8

/-- SET_ODR's field value: the rate modulo 8 (R77, R108). -/
def odrRate (rate : Byte) : Byte := rate &&& 0x07#8

/-- SET_ODR replaces bits 6:4 by the rate modulo 8 (R108). -/
def fSetOdr (rate t : Byte) : Byte := (t &&& 0x8F#8) ||| (odrRate rate <<< 4)

/-- INT_CIRCUIT_ON sets bit 3 (R109). -/
def fIntCircuitOn (t : Byte) : Byte := t ||| 0x08#8

/-- INT_CIRCUIT_OFF clears bit 3 (R110). -/
def fIntCircuitOff (t : Byte) : Byte := t &&& 0xF7#8

/-- BDU_ON sets bit 2 (R111). -/
def fBduOn (t : Byte) : Byte := t ||| 0x04#8

/-- BDU_OFF clears bit 2 (R112). -/
def fBduOff (t : Byte) : Byte := t &&& 0xFB#8

/-- DELTA_ON sets bit 1 (R113). -/
def fDeltaOn (t : Byte) : Byte := t ||| 0x02#8

/-- DELTA_OFF clears bit 1 (R114). -/
def fDeltaOff (t : Byte) : Byte := t &&& 0xFD#8

/-- SPI_IF_MODE 4 clears bit 4 (R115). -/
def fSpiIf4 (t : Byte) : Byte := t &&& 0xEF#8

/-- SPI_IF_MODE 3 sets bit 0 (R115). -/
def fSpiIf3 (t : Byte) : Byte := t ||| 0x01#8

/-- REBOOT_MODE ORs the mode modulo 2 into bit 7 (R77, R116). -/
def fRebootMode (mode t : Byte) : Byte := t ||| ((mode &&& 0x01#8) <<< 7)

/-- SOFT_RESET sets bit 2 (R117). -/
def fSoftReset (t : Byte) : Byte := t ||| 0x04#8

/-- SET_INT_CFG and SET_CONFIG OR their operand in (R118, R119). -/
def fOrValue (value t : Byte) : Byte := t ||| value

/-- SET_INT_CFG's write target (R12, R118). -/
def intCfgTarget (cfg : Config) : Byte :=
  if cfg.correctedIntCfg then cfg.raIntCfgReg else cfg.raCtrlReg2

/-- The pressure raw sample: MSB, LSB, XLSB, big-endian, 24 bits (R140). -/
def assemblePressure (b2 b1 b0 : Byte) : Word32 :=
  ((zext32 b2 <<< 16) ||| (zext32 b1 <<< 8) ||| zext32 b0) &&& 0x00FFFFFF#32

/-- The temperature raw sample: MSB, LSB, big-endian, 16 bits (R141). -/
def assembleTemperature (h l : Byte) : Word32 := (zext32 h <<< 8) ||| zext32 l

/-- `s16(ACC[15:0])`, two's complement (R14, R141). -/
def s16 (acc : Word32) : Int := (acc.extractLsb' 0 16).toInt

end Sys2Proof.Machine
end

