-- ==== Sys2Proof/Machine/State.lean ====
section
/-!
DEFINITION. The state of PCBS (R20), its ports, and the state after reset (R42, R185).

The registers of R20 come first.  The other fields are the model's own: the parameters of R13, the
bus-action port and the trace of R48 and R69, and the inputs of the outside world (the host's moves
and what the collaborators will answer).  INVENTORY.md lists every field.
-/

namespace Sys2Proof.Machine

/-- MODE, the bus mode (R21).  The encoding 3 is never written. -/
inductive Mode where
  | uninit | spi | i2c
  deriving DecidableEq, Repr

/-- The 2-bit encoding of MODE (R21). -/
def Mode.code : Mode → BitVec 2
  | .uninit => 0#2
  | .spi => 1#2
  | .i2c => 2#2

/-- A level PCBS drives on the chip-select line (R51): LOW is asserted, HIGH is inactive. -/
inductive Level where
  | low | high
  deriving DecidableEq, Repr

/-- CS_LVL, the last level PCBS drove on chip-select (R23). -/
inductive CsLevel where
  | undriven | low | high
  deriving DecidableEq, Repr

/-- The 2-bit encoding of CS_LVL (R23). -/
def CsLevel.code : CsLevel → BitVec 2
  | .undriven => 0#2
  | .low => 1#2
  | .high => 2#2

/-- FAULT_CODE (R161). -/
inductive FaultCode where
  | none | illegalOpcode | notInitialised | alreadyInitialised | badArgument
  deriving DecidableEq, Repr

/-- The 3-bit encoding of FAULT_CODE (R161). -/
def FaultCode.code : FaultCode → BitVec 3
  | .none => 0#3
  | .illegalOpcode => 1#3
  | .notInitialised => 2#3
  | .alreadyInitialised => 3#3
  | .badArgument => 4#3

/-- RSP_KIND (R81). -/
inductive RspKind where
  | none | byte | bool | bit | f32
  deriving DecidableEq, Repr

/-- The 3-bit encoding of RSP_KIND (R81). -/
def RspKind.code : RspKind → BitVec 3
  | .none => 0#3
  | .byte => 1#3
  | .bool => 2#3
  | .bit => 3#3
  | .f32 => 4#3

/-- The end condition of an I2C transaction (R48). -/
inductive EndCond where
  | stop | restart
  deriving DecidableEq, Repr

/-- A bus action with its payload (R48).  Both reads ask for exactly one byte. -/
inductive BusAction where
  /-- `CsSet(level)` (R51) -/
  | csSet (level : Level)
  /-- `SpiWrite(bytes)` (R52) -/
  | spiWrite (bytes : List Byte)
  /-- `SpiRead(1)` (R53) -/
  | spiRead
  /-- `I2cWrite(sa, bytes, end)` (R54) -/
  | i2cWrite (sa : Byte) (bytes : List Byte) (stopOr : EndCond)
  /-- `I2cRead(sa, 1, end)` (R55) -/
  | i2cRead (sa : Byte) (stopOr : EndCond)
  /-- `IntRead()` (R58) -/
  | intRead
  deriving DecidableEq, Repr

/-- The completion value of a bus action (R48). -/
inductive Answer where
  | done
  | byte (b : Byte)
  | level (high : Bool)
  deriving DecidableEq, Repr

/-- An event of the trace (R69). -/
inductive Event where
  | accept (w : CmdWord)
  | bus (a : BusAction) (v : Answer)
  | respond (kind : RspKind) (data : Word32)
  | fault (code : FaultCode) (w : CmdWord)
  deriving DecidableEq, Repr

/-- A move of the outside world on PCBS. -/
inductive Input where
  /-- the host issues a command word (R24, R188) -/
  | command (w : CmdWord)
  /-- the host accepts the response (R30) -/
  | takeResponse
  /-- power-on reset (R185) -/
  | powerOn
  deriving DecidableEq, Repr

/-- What the command port offers PCBS in one step. -/
inductive Offer where
  | nothing
  | command (w : CmdWord)
  | takeResponse
  | powerOn
  deriving DecidableEq, Repr

/-- Reasons a step can stop with a fault: none.  The faults of R161 are states PCBS goes on from
(R167: FAULT, FAULT_CODE and FAULT_CMD are registers; R168: it then waits for reset), and so is a
bus action that never completes (R49: PCBS waits with BUSY = 1). -/
inductive Fault where
  deriving DecidableEq, Repr

/-- Reasons a step is refused. -/
inductive Refusal where
  /-- Raised by an arm of exec whose instruction has no meaning yet; no arm is such an arm.  Safe:
  a run that reaches it proves nothing. -/
  | notModelled (mnemonic : String)
  deriving DecidableEq, Repr

/-- The state: the registers of R20, the parameters, the ports and the outside world's inputs. -/
structure State where
  /-- the parameters of R13; no instruction writes them -/
  cfg : Config
  /-- MODE (R21) -/
  mode : Mode
  /-- SLAVE (R22) -/
  slave : Byte
  /-- CS_LVL (R23) -/
  csLvl : CsLevel
  /-- BUSY (R24) -/
  busy : Bool
  /-- CMD (R24) -/
  cmd : CmdWord
  /-- STEP (R25) -/
  stepIdx : BitVec 5
  /-- ACC (R26) -/
  acc : Word32
  /-- TMP (R27) -/
  tmp : Byte
  /-- FAIL (R28) -/
  fail : Bool
  /-- FAULT (R29) -/
  fault : Bool
  /-- FAULT_CODE (R29) -/
  faultCode : FaultCode
  /-- FAULT_CMD (R29) -/
  faultCmd : CmdWord
  /-- RSP_VALID (R30) -/
  rspValid : Bool
  /-- RSP_KIND (R30) -/
  rspKind : RspKind
  /-- RSP_DATA (R30) -/
  rspData : Word32
  /-- the bus-action port (R48): the action PCBS has issued and waits for (R49) -/
  port : Option BusAction
  /-- the trace since reset (R69), oldest event first -/
  trace : List Event
  /-- the outside world's coming moves, next first, taken in this order (log entries 5 and 13) -/
  inputs : List Input
  /-- the bytes the coming register reads draw (R47), next first; past its end a draw is
  `Config.freeByte` -/
  bytes : List Byte
  /-- the pin levels the coming `IntRead`s draw (R58), next first; past its end a draw is
  `Config.freeLevel` -/
  levels : List Bool
  /-- how many draws were made: the index of the next free value -/
  draws : Nat
  /-- `some n`: the collaborators complete n more bus actions and never complete the one after
  (R49).  `none`: they complete every action. -/
  stall : Option Nat
  deriving DecidableEq, Repr

/-- Where a command's body stands after some of its statements: running on, or waiting for a bus
action that never completes (R49). -/
inductive Flow where
  | running (s : State)
  | waiting (s : State)
  deriving DecidableEq, Repr

/-- The state right after reset (R42, R185), with the default parameters of R10 to R12.
SLAVE, CMD, ACC, TMP and FAIL, which R42 leaves unspecified, are 0 (DESIGN CHOICE, log entry 3).
Nothing is issued, nothing is input, and the collaborators complete every action
(DESIGN CHOICE, log entries 2 and 4). -/
def State.reset : State where
  cfg := Config.default
  mode := .uninit
  slave := 0#8
  csLvl := .undriven
  busy := false
  cmd := 0#24
  stepIdx := 0#5
  acc := 0#32
  tmp := 0#8
  fail := false
  fault := false
  faultCode := .none
  faultCmd := 0#24
  rspValid := false
  rspKind := .none
  rspData := 0#32
  port := none
  trace := []
  inputs := []
  bytes := []
  levels := []
  draws := 0
  stall := none

end Sys2Proof.Machine
end

