-- ==== Sys2Proof/Machine/Ops.lean ====
section
/-!
DEFINITION. The shared operations: the bus actions and what completes them (R47 to R58), the register
read and write sequences built from them (R56, R57, R105), the command envelope with its checks and
its response (R81, R95, R166), taking a fault (R167), and the command port (R24, R30, R168, R185).
-/

namespace Sys2Proof.Machine

/-! ## What the collaborators answer -/

/-- The byte the k-th register read from now draws (R47): scripted, or else a free value. -/
def State.byteAt (s : State) (k : Nat) : Byte := (s.bytes[k]?).getD (Config.freeByte (s.draws + k))

/-- The level the k-th `IntRead` from now draws (R58): scripted, or else a free value. -/
def State.levelAt (s : State) (k : Nat) : Bool := (s.levels[k]?).getD (Config.freeLevel (s.draws + k))

/-- The collaborators complete at least n more bus actions (R49). -/
def State.completes (s : State) (n : Nat) : Bool :=
  match s.stall with
  | none => true
  | some k => decide (n ≤ k)

/-! ## Bus actions -/

/-- The state a flow stands in. -/
def Flow.state : Flow → State
  | .running s => s
  | .waiting s => s

/-- One statement after another; a body that waits runs no later statement (R15, R49). -/
def Flow.andThen (m : Flow) (k : State → Flow) : Flow :=
  match m with
  | .running s => k s
  | .waiting s => .waiting s

/-- The statements of a list, run in order (R15). -/
def runAll : List (State → Flow) → State → Flow
  | [], s => .running s
  | f :: fs, s => (f s).andThen (runAll fs)

/-- CS_LVL after `CsSet(level)` (R51). -/
def Level.toCs : Level → CsLevel
  | .low => .low
  | .high => .high

/-- The completion value of an action (R48). -/
def answerOf (a : BusAction) (s : State) : Answer :=
  match a with
  | .spiRead | .i2cRead _ _ => .byte (s.byteAt 0)
  | .intRead => .level (s.levelAt 0)
  | .csSet _ | .spiWrite _ | .i2cWrite _ _ _ => .done

/-- A completed bus action: one more in STEP (R25) and in the trace (R69); `CsSet` writes CS_LVL
(R51); a read uses up its draw. -/
def complete (a : BusAction) (s : State) : State :=
  let t := { s with
    port := none
    stepIdx := s.stepIdx + 1#5
    stall := s.stall.map (· - 1)
    trace := s.trace ++ [.bus a (answerOf a s)] }
  match a with
  | .csSet level => { t with csLvl := level.toCs }
  | .spiRead | .i2cRead _ _ => { t with bytes := s.bytes.tail, draws := s.draws + 1 }
  | .intRead => { t with levels := s.levels.tail, draws := s.draws + 1 }
  | .spiWrite _ | .i2cWrite _ _ _ => t

/-- A bus action: issued on the port, then completed, or waited for without end (R49). -/
def perform (a : BusAction) (s : State) : Flow :=
  if s.completes 1 then .running (complete a s) else .waiting { s with port := some a }

/-- `TMP <- SpiRead(1)` and `TMP <- I2cRead(...)` (R27, R56). -/
def readByte (a : BusAction) (s : State) : Flow :=
  (perform a s).andThen fun t => .running { t with tmp := s.byteAt 0 }

/-- `MemRead(a, 1)` (R56).  With MODE = UNINIT it never runs (R163). -/
def memRead (a : Byte) (s : State) : Flow :=
  match s.mode with
  | .spi => runAll [perform (.csSet .low), perform (.spiWrite [spiReadAddr a]),
      readByte .spiRead, perform (.csSet .high)] s
  | .i2c => runAll [perform (.i2cWrite s.slave [a] .restart), readByte (.i2cRead s.slave .stop)] s
  | .uninit => .running s

/-- `MemWrite(a, 1, v)` (R57).  With MODE = UNINIT it never runs (R163). -/
def memWrite (a v : Byte) (s : State) : Flow :=
  match s.mode with
  | .spi => runAll [perform (.csSet .low), perform (.spiWrite [spiWriteAddr a, v]),
      perform (.csSet .high)] s
  | .i2c => perform (.i2cWrite s.slave [a, v] .stop) s
  | .uninit => .running s

/-- The read-modify-write sequence of R105: read `ar`, write `f` of the byte read to `aw`. -/
def rmw (ar aw : Byte) (f : Byte → Byte) (s : State) : Flow :=
  (memRead ar s).andThen fun t => memWrite aw (f t.tmp) t

/-! ## The command envelope -/

/-- `respond(kind, data)` and the end of the command (R30, R81, R95): BUSY and STEP return to 0. -/
def respond (kind : RspKind) (data : Word32) (s : State) : Flow :=
  .running { s with
    rspValid := true
    rspKind := kind
    rspData := data
    busy := false
    stepIdx := 0#5
    trace := s.trace ++ [.respond kind data] }

/-- Fault entry (R167): no other state changes. -/
def raiseFault (code : FaultCode) (s : State) : State :=
  { s with
    fault := true
    faultCode := code
    faultCmd := s.cmd
    rspValid := false
    busy := false
    stepIdx := 0#5
    trace := s.trace ++ [.fault code s.cmd] }

/-- The two commands that bind the bus (R166). -/
def isInit : Instr → Bool
  | .initSpi | .initI2c _ => true
  | .readReg _ | .writeReg _ _ | .enable | .powerDown | .setOdr _ => false
  | .intCircuitOn | .intCircuitOff | .bduOn | .bduOff | .deltaOn | .deltaOff => false
  | .spiIfMode _ | .rebootMode _ | .softReset | .setIntCfg _ | .setConfig _ => false
  | .getConfig | .readId | .getIntState | .defaultConfig => false
  | .getPressure | .getTemperature => false

/-- The operand is one the command faults on (R165): the whole byte is compared. -/
def badOperand : Instr → Bool
  | .spiIfMode mode => mode != 3#8 && mode != 4#8
  | .initSpi | .initI2c _ | .readReg _ | .writeReg _ _ | .enable | .powerDown | .setOdr _ => false
  | .intCircuitOn | .intCircuitOff | .bduOn | .bduOff | .deltaOn | .deltaOff => false
  | .rebootMode _ | .softReset | .setIntCfg _ | .setConfig _ => false
  | .getConfig | .readId | .getIntState | .defaultConfig => false
  | .getPressure | .getTemperature => false

/-- `check(cmd, op1)` for a legal command, in the order of R166 (R163 to R165). -/
def check (i : Instr) (mode : Mode) : Option FaultCode :=
  if isInit i && mode != .uninit then some .alreadyInitialised
  else if !isInit i && mode == .uninit then some .notInitialised
  else if badOperand i then some .badArgument
  else none

/-- The envelope of R95 after acceptance: check, then the body, which ends in its response. -/
def runCommand (i : Instr) (body : State → Flow) (s : State) :
    Host.Outcome State Fault Refusal :=
  match check i s.mode with
  | some code => .next (raiseFault code s)
  | none => .next (body s).state

/-! ## The command port -/

/-- What the command port offers (R24, R168): a command is accepted only when BUSY = 0 and
FAULT = 0 and is left pending otherwise; the host, which blocks, takes no response while PCBS is
busy; a power-on reset that is the next move is taken in every state (R185).

DESIGN CHOICE (log entry 13): the spec does not say what becomes of a command left pending
(FAULT = 1 or BUSY = 1) when power-on reset comes.  Only the head of `inputs` is looked at, so a
move that cannot be taken yet holds up every move behind it, a power-on among them.  A reset that
comes while a command is pending is a list with the power-on first: before the command if the host
still offers it after the reset, without it if the reset withdraws it. -/
def offered (s : State) : Offer :=
  match s.inputs with
  | [] => .nothing
  | .powerOn :: _ => .powerOn
  | .takeResponse :: _ => if s.busy then .nothing else .takeResponse
  | .command w :: _ => if s.busy || s.fault then .nothing else .command w

/-- `Accept(w); BUSY <- 1; CMD <- w; STEP <- 0` (R95). -/
def accept (w : CmdWord) (s : State) : State :=
  { s with
    inputs := s.inputs.tail
    busy := true
    cmd := w
    stepIdx := 0#5
    trace := s.trace ++ [.accept w] }

/-- An accepted word the decoder rejects (R162, R166). -/
def rejectCommand (r : Reject) (s : State) : State :=
  match r with
  | .illegalOpcode _ => raiseFault .illegalOpcode s

/-- The host accepts the response (R30). -/
def takeResponse (s : State) : State := { s with inputs := s.inputs.tail, rspValid := false }

/-- Power-on reset (R42, R185): every register takes its reset value, and a new trace begins.
The parameters and what the outside world will do are no registers of PCBS and stay (log entry 7);
so the moves behind the power-on, a command among them, are offered after it (log entry 13). -/
def powerOn (s : State) : State :=
  { State.reset with
    cfg := s.cfg
    inputs := s.inputs.tail
    bytes := s.bytes
    levels := s.levels
    draws := s.draws
    stall := s.stall }

/-- The state in which the command port offers the word w to an idle PCBS. -/
def offerWord (w : CmdWord) (s : State) : State :=
  { s with inputs := .command w :: s.inputs, busy := false, fault := false }

end Sys2Proof.Machine
end

