-- ==== Sys2Proof/Machine/Bus.lean ====
section
/-!
DEFINITION. Bus initialisation and register primitives: INIT_SPI, INIT_I2C, READ_REG, WRITE_REG
(spec/40_bus_primitives.md, R96 to R99).
-/

namespace Sys2Proof.Machine

/-- `MODE <- SPI` (R96). -/
def bindSpi (s : State) : Flow := .running { s with mode := .spi }

/-- `SLAVE <- OP1; MODE <- I2C` (R97). -/
def bindI2c (slave : Byte) (s : State) : Flow := .running { s with slave := slave, mode := .i2c }

/-- `respond(BYTE, zext_32(TMP))` (R81, R98). -/
def respondTmp (s : State) : Flow := respond .byte (zext32 s.tmp) s

/-- INIT_SPI (R96). -/
def execInitSpi (s : State) : Host.Outcome State Fault Refusal :=
  runCommand .initSpi (runAll [bindSpi, perform (.csSet .high), respond .none 0#32]) s

/-- INIT_I2C (R97): no bus action. -/
def execInitI2c (slave : Byte) (s : State) : Host.Outcome State Fault Refusal :=
  runCommand (.initI2c slave) (runAll [bindI2c slave, respond .none 0#32]) s

/-- READ_REG (R98). -/
def execReadReg (addr : Byte) (s : State) : Host.Outcome State Fault Refusal :=
  runCommand (.readReg addr) (runAll [memRead addr, respondTmp]) s

/-- WRITE_REG (R99). -/
def execWriteReg (addr value : Byte) (s : State) : Host.Outcome State Fault Refusal :=
  runCommand (.writeReg addr value) (runAll [memWrite addr value, respond .none 0#32]) s

end Sys2Proof.Machine
end

