-- ==== Sys2Proof/Machine/Control.lean ====
section
/-!
DEFINITION. The control operations and defaultConfig (spec/41_control_ops.md, R106 to R123).
-/

namespace Sys2Proof.Machine

/-- The body of a read-modify-write command on one register (R105). -/
def rmwBody (a : Byte) (f : Byte → Byte) : State → Flow := runAll [rmw a a f, respond .none 0#32]

/-- ENABLE (R106). -/
def execEnable (s : State) : Host.Outcome State Fault Refusal :=
  runCommand .enable (rmwBody s.cfg.raCtrlReg1 fEnable) s

/-- POWER_DOWN (R107). -/
def execPowerDown (s : State) : Host.Outcome State Fault Refusal :=
  runCommand .powerDown (rmwBody s.cfg.raCtrlReg1 fPowerDown) s

/-- SET_ODR (R108). -/
def execSetOdr (rate : Byte) (s : State) : Host.Outcome State Fault Refusal :=
  runCommand (.setOdr rate) (rmwBody s.cfg.raCtrlReg1 (fSetOdr rate)) s

/-- INT_CIRCUIT_ON (R109). -/
def execIntCircuitOn (s : State) : Host.Outcome State Fault Refusal :=
  runCommand .intCircuitOn (rmwBody s.cfg.raCtrlReg1 fIntCircuitOn) s

/-- INT_CIRCUIT_OFF (R110). -/
def execIntCircuitOff (s : State) : Host.Outcome State Fault Refusal :=
  runCommand .intCircuitOff (rmwBody s.cfg.raCtrlReg1 fIntCircuitOff) s

/-- BDU_ON (R111). -/
def execBduOn (s : State) : Host.Outcome State Fault Refusal :=
  runCommand .bduOn (rmwBody s.cfg.raCtrlReg1 fBduOn) s

/-- BDU_OFF (R112). -/
def execBduOff (s : State) : Host.Outcome State Fault Refusal :=
  runCommand .bduOff (rmwBody s.cfg.raCtrlReg1 fBduOff) s

/-- DELTA_ON (R113). -/
def execDeltaOn (s : State) : Host.Outcome State Fault Refusal :=
  runCommand .deltaOn (rmwBody s.cfg.raCtrlReg1 fDeltaOn) s

/-- DELTA_OFF (R114). -/
def execDeltaOff (s : State) : Host.Outcome State Fault Refusal :=
  runCommand .deltaOff (rmwBody s.cfg.raCtrlReg1 fDeltaOff) s

/-- SPI_IF_MODE (R115): mode 4 clears bit 4, mode 3 sets bit 0; any other mode faults in the check (R165). -/
def execSpiIfMode (mode : Byte) (s : State) : Host.Outcome State Fault Refusal :=
  runCommand (.spiIfMode mode) (rmwBody s.cfg.raCtrlReg1 (if mode = 4#8 then fSpiIf4 else fSpiIf3)) s

/-- REBOOT_MODE (R116). -/
def execRebootMode (mode : Byte) (s : State) : Host.Outcome State Fault Refusal :=
  runCommand (.rebootMode mode) (rmwBody s.cfg.raCtrlReg2 (fRebootMode mode)) s

/-- SOFT_RESET (R117). -/
def execSoftReset (s : State) : Host.Outcome State Fault Refusal :=
  runCommand .softReset (rmwBody s.cfg.raCtrlReg2 fSoftReset) s

/-- SET_INT_CFG (R118): reads INT_CFG_REG and writes CTRL_REG2, or INT_CFG_REG when
CORRECTED_INT_CFG is true (R12). -/
def execSetIntCfg (value : Byte) (s : State) : Host.Outcome State Fault Refusal :=
  runCommand (.setIntCfg value)
    (runAll [rmw s.cfg.raIntCfgReg (intCfgTarget s.cfg) (fOrValue value), respond .none 0#32]) s

/-- SET_CONFIG (R119). -/
def execSetConfig (value : Byte) (s : State) : Host.Outcome State Fault Refusal :=
  runCommand (.setConfig value) (rmwBody s.cfg.raResConfig (fOrValue value)) s

/-- GET_CONFIG (R120). -/
def execGetConfig (s : State) : Host.Outcome State Fault Refusal :=
  runCommand .getConfig (runAll [memRead s.cfg.raResConfig, respondTmp]) s

/-- READ_ID (R121). -/
def execReadId (s : State) : Host.Outcome State Fault Refusal :=
  runCommand .readId (runAll [memRead s.cfg.raDeviceId, respondTmp]) s

/-- `lv <- IntRead(); respond(BIT, zext_32(lv))` (R58, R122). -/
def intReadBody (s : State) : Flow :=
  (perform .intRead s).andThen (respond .bit (bitResult (s.levelAt 0)))

/-- GET_INT_STATE (R122): no bus, no chip-select, no TMP. -/
def execGetIntState (s : State) : Host.Outcome State Fault Refusal :=
  runCommand .getIntState intReadBody s

/-- `FAIL <- 0` (R123). -/
def clearFail (s : State) : Flow := .running { s with fail := false }

/-- `if TMP ≠ expected: FAIL <- 1` (R123). -/
def expectTmp (expected : Byte) (s : State) : Flow :=
  .running { s with fail := failAfter expected s.tmp s.fail }

/-- One step of DEFAULT_CONFIG: a plain write, its readback, and the check of the readback (R123). -/
def writeAndCheck (a v : Byte) : State → Flow := runAll [memWrite a v, memRead a, expectTmp v]

/-- `respond(BOOL, 1 if FAIL = 0 else 0)` (R123). -/
def respondNotFail (s : State) : Flow := respond .bool (boolResult s.fail) s

/-- DEFAULT_CONFIG (R123): all seven register accesses are always issued, in this order. -/
def execDefaultConfig (s : State) : Host.Outcome State Fault Refusal :=
  runCommand .defaultConfig
    (runAll [clearFail,
      writeAndCheck s.cfg.raResConfig 0x78#8,
      writeAndCheck s.cfg.raCtrlReg1 0x74#8,
      writeAndCheck s.cfg.raCtrlReg1 0xF4#8,
      memRead s.cfg.raDeviceId, expectTmp 0xBB#8,
      respondNotFail]) s

end Sys2Proof.Machine
end

