-- ==== Sys2Proof/Machine/Float.lean ====
section
/-!
DEFINITION. The floating-point primitives of R17 and the temperature formula of R146, in exact
integer arithmetic.

`f32` is the binary32 value nearest to a rational, ties to even (R17, R142).  It is written for
magnitudes below the largest binary32 value; no operand of PCBS comes near it (R148), so neither
infinities nor NaN are represented (log entry 9).
-/

namespace Sys2Proof

/-- `p + q`, exactly. -/
def Frac.add (p q : Frac) : Frac := ⟨p.num * q.den + q.num * p.den, p.den * q.den⟩

/-- `p / q`, exactly, for `q` not 0. -/
def Frac.div (p q : Frac) : Frac := ⟨p.num * q.den * q.num.sign, p.den * q.num.natAbs⟩

/-- `n / d * 2 ^ k` as a numerator and a denominator. -/
def scaledBy (n d : Nat) (k : Int) : Nat × Nat :=
  if 0 ≤ k then (n * 2 ^ k.toNat, d) else (n, d * 2 ^ (-k).toNat)

/-- The largest e with `2 ^ e ≤ n / d`, for n and d not 0. -/
def floorLog2 (n d : Nat) : Int :=
  let e : Int := (n.log2 : Int) - (d.log2 : Int)
  if (scaledBy n d (-e)).2 ≤ (scaledBy n d (-e)).1 then e else e - 1

/-- `n / d` rounded to an integer, ties to even (R142). -/
def roundTiesEven (n d : Nat) : Nat :=
  let q := n / d
  let r := n % d
  if 2 * r < d then q
  else if d < 2 * r then q + 1
  else if q % 2 = 0 then q else q + 1

/-- The exponent of the last bit of the binary32 significand of a magnitude `n / d`: 24 significant
bits, and never below the subnormals' 2^-149 (R142). -/
def lastBitExp (n d : Nat) : Int := max (floorLog2 n d) (-126) - 23

/-- `f32(q)`: the binary32 value nearest to q, ties to even (R17).  A zero result is +0.0. -/
def f32 (q : Frac) : B32 :=
  let n := q.num.natAbs
  if n = 0 then ⟨false, 0, -149⟩
  else
    let e := lastBitExp n q.den
    let m := roundTiesEven (scaledBy n q.den (-e)).1 (scaledBy n q.den (-e)).2
    if m = 2 ^ 24 then ⟨decide (q.num < 0), 2 ^ 23, e + 1⟩
    else if m = 0 then ⟨false, 0, -149⟩
    else ⟨decide (q.num < 0), m, e⟩

/-- The exact value of a binary32 value. -/
def B32.value (x : B32) : Frac :=
  let m : Int := if x.neg then -(x.mant : Int) else x.mant
  if 0 ≤ x.exp then ⟨m * 2 ^ x.exp.toNat, 1⟩ else ⟨m, 2 ^ (-x.exp).toNat⟩

/-- `itof(i)`: exact for an integer of at most 24 significant bits (R17). -/
def itof (i : Int) : B32 := f32 ⟨i, 1⟩

/-- `fdiv(a, b)` is `f32(a / b)` (R17). -/
def fdiv (a b : B32) : B32 := f32 (a.value.div b.value)

/-- `fadd(a, b)` is `f32(a + b)` (R17). -/
def fadd (a b : B32) : B32 := f32 (a.value.add b.value)

/-- `bits32(x)`: 1 sign bit, 8 exponent bits with bias 127, 23 fraction bits (R17, R142). -/
def bits32 (x : B32) : Word32 :=
  BitVec.ofBool x.neg ++
    (if x.mant < 2 ^ 23 then 0#8 else BitVec.ofInt 8 (x.exp + 150)) ++
    BitVec.ofNat 23 x.mant

/-- The exact value of a finite binary32 encoding: sign, exponent with bias 127, fraction (R142). -/
def valueOf32 (w : Word32) : Frac :=
  let e := (w.extractLsb' 23 8).toNat
  let f := (w.extractLsb' 0 23).toNat
  if e = 0 then B32.value ⟨w.getLsbD 31, f, -149⟩
  else B32.value ⟨w.getLsbD 31, 2 ^ 23 + f, (e : Int) - 150⟩

/-- The constant 4096.0, P_SCALE (R9). -/
def pScale : B32 := itof 4096

/-- The constant 480.0, T_SCALE (R9). -/
def tScale : B32 := itof 480

/-- The constant 42.5 = 85/2, T_OFFSET (R9). -/
def tOffset : B32 := f32 ⟨85, 2⟩

/-- The pressure in mbar of the raw sample n (R143). -/
def pressure (n : Nat) : B32 := fdiv (itof n) pScale

/-- The temperature in °C of the raw sample t (R146): two roundings, or one. -/
def temp (mode : TempEval) (t : Int) : B32 :=
  match mode with
  | .stepwiseB32 => fadd (fdiv (itof t) tScale) tOffset
  | .correctlyRounded => f32 (Frac.add ⟨t, 480⟩ ⟨85, 2⟩)

end Sys2Proof
end

