-- ==== Sys2Proof/Machine/Conversion.lean ====
section
/-!
DEFINITION. Measurement conversion: GET_PRESSURE and GET_TEMPERATURE
(spec/42_conversion.md, R143 and R145).
-/

namespace Sys2Proof.Machine

/-- `ACC <- ` the raw sample (R140, R141). -/
def setAcc (raw : Word32) (s : State) : Flow := .running { s with acc := raw }

/-- `p <- fdiv(itof(ACC), 4096.0); respond(F32, bits32(p))` (R143). -/
def respondPressure (s : State) : Flow := respond .f32 (bits32 (pressure s.acc.toNat)) s

/-- `T <- temp(s16(ACC[15:0])); respond(F32, bits32(T))` (R145). -/
def respondTemperature (s : State) : Flow :=
  respond .f32 (bits32 (temp s.cfg.tempEval (s16 s.acc))) s

/-- The body of GET_PRESSURE: MSB, LSB, XLSB in that order (R143). -/
def pressureBody (s : State) : Flow :=
  (memRead s.cfg.raPressMsb s).andThen fun s2 =>
  (memRead s.cfg.raPressLsb s2).andThen fun s1 =>
  (memRead s.cfg.raPressXlsb s1).andThen fun s0 =>
  runAll [setAcc (assemblePressure s2.tmp s1.tmp s0.tmp), respondPressure] s0

/-- The body of GET_TEMPERATURE: MSB, LSB (R145). -/
def temperatureBody (s : State) : Flow :=
  (memRead s.cfg.raTempMsb s).andThen fun s1 =>
  (memRead s.cfg.raTempLsb s1).andThen fun s0 =>
  runAll [setAcc (assembleTemperature s1.tmp s0.tmp), respondTemperature] s0

/-- GET_PRESSURE (R143). -/
def execGetPressure (s : State) : Host.Outcome State Fault Refusal :=
  runCommand .getPressure pressureBody s

/-- GET_TEMPERATURE (R145). -/
def execGetTemperature (s : State) : Host.Outcome State Fault Refusal :=
  runCommand .getTemperature temperatureBody s

end Sys2Proof.Machine
end

