-- ==== Sys2Proof/Machine/Dispatch.lean ====
section
/-!
DEFINITION. The dispatch: one arm per command, one direct call of its meaning.
-/

namespace Sys2Proof.Machine

/-- An accepted command (BUSY = 1, CMD latched, STEP = 0) runs to its response, to its fault, or to
the bus action it waits for without end (R95). -/
def exec (i : Instr) (s : State) : Host.Outcome State Fault Refusal :=
  match i with
  | .initSpi => Sys2Proof.Machine.execInitSpi s
  | .initI2c slave => Sys2Proof.Machine.execInitI2c slave s
  | .readReg addr => Sys2Proof.Machine.execReadReg addr s
  | .writeReg addr value => Sys2Proof.Machine.execWriteReg addr value s
  | .enable => Sys2Proof.Machine.execEnable s
  | .powerDown => Sys2Proof.Machine.execPowerDown s
  | .setOdr rate => Sys2Proof.Machine.execSetOdr rate s
  | .intCircuitOn => Sys2Proof.Machine.execIntCircuitOn s
  | .intCircuitOff => Sys2Proof.Machine.execIntCircuitOff s
  | .bduOn => Sys2Proof.Machine.execBduOn s
  | .bduOff => Sys2Proof.Machine.execBduOff s
  | .deltaOn => Sys2Proof.Machine.execDeltaOn s
  | .deltaOff => Sys2Proof.Machine.execDeltaOff s
  | .spiIfMode mode => Sys2Proof.Machine.execSpiIfMode mode s
  | .rebootMode mode => Sys2Proof.Machine.execRebootMode mode s
  | .softReset => Sys2Proof.Machine.execSoftReset s
  | .setIntCfg value => Sys2Proof.Machine.execSetIntCfg value s
  | .setConfig value => Sys2Proof.Machine.execSetConfig value s
  | .getConfig => Sys2Proof.Machine.execGetConfig s
  | .readId => Sys2Proof.Machine.execReadId s
  | .getIntState => Sys2Proof.Machine.execGetIntState s
  | .defaultConfig => Sys2Proof.Machine.execDefaultConfig s
  | .getPressure => Sys2Proof.Machine.execGetPressure s
  | .getTemperature => Sys2Proof.Machine.execGetTemperature s

end Sys2Proof.Machine
end

