-- ==== Sys2Proof/Machine/Step.lean ====
section
/-!
DEFINITION. One step of the machine: what the command port offers, run to its end (R64, R95).

One command is one step.  With nothing to take (no input, a command left pending while BUSY = 1 or
FAULT = 1) the machine stays as it is (R49, R168; log entry 12), whatever moves lie behind
(log entry 13).
-/

namespace Sys2Proof.Machine

/-- One step. -/
def step (s : State) : Host.Outcome State Fault Refusal :=
  match offered s with
  | .nothing => .next s
  | .powerOn => .next (powerOn s)
  | .takeResponse => .next (takeResponse s)
  | .command w =>
    match decode w with
    | .ok i => exec i (accept w s)
    | .error r => .next (rejectCommand r (accept w s))

/-- `s` with the opcode-table word `w` of `nbits` bits offered next on the command port, and BUSY
and FAULT clear, as acceptance needs (R24).  A program is a list of commands the host issues
(log entry 5). -/
def State.withFetchWord (s : State) (nbits w : Nat) : State :=
  offerWord (BitVec.ofNat 24 (w % 2 ^ nbits)) s

end Sys2Proof.Machine
end

