-- ==== Sys2Proof/Machine/Wire.lean ====
section
/-!
DEFINITION. What a trace puts on the wires, transaction by transaction (R54, R55, R84): a view
computed from the trace, no state of its own.  How a slave address becomes an address byte, and
everything below it, belongs to the collaborators (R52, R54).
-/

namespace Sys2Proof.Machine

/-- An item on the SPI or I2C wires (R84). -/
inductive WireItem where
  | cs (level : Level)
  | spiOut (b : Byte)
  | spiIn (b : Byte)
  | start
  | repeatedStart
  | slaveWrite (sa : Byte)
  | slaveRead (sa : Byte)
  | i2cOut (b : Byte)
  | i2cIn (b : Byte)
  | stop
  deriving DecidableEq, Repr

/-- The condition that opens an I2C transaction: a repeated START when the previous one ended in
RESTART (R54). -/
def startItem (held : Bool) : WireItem := if held then .repeatedStart else .start

/-- The end condition of an I2C transaction: with RESTART no STOP follows (R54). -/
def endItems : EndCond → List WireItem
  | .stop => [.stop]
  | .restart => []

/-- The I2C bus is held for a repeated START after an action (R54). -/
def heldAfter (held : Bool) : BusAction → Bool
  | .i2cWrite _ _ e => e == .restart
  | .i2cRead _ e => e == .restart
  | .csSet _ | .spiWrite _ | .spiRead | .intRead => held

/-- The byte of a completed read. -/
def Answer.bytes : Answer → List Byte
  | .byte b => [b]
  | .done | .level _ => []

/-- The wire items of one completed bus action (R51 to R55).  `IntRead` touches no bus (R58). -/
def wireAction (held : Bool) (v : Answer) : BusAction → List WireItem
  | .csSet level => [.cs level]
  | .spiWrite bytes => bytes.map .spiOut
  | .spiRead => v.bytes.map .spiIn
  | .i2cWrite sa bytes e => startItem held :: .slaveWrite sa :: bytes.map .i2cOut ++ endItems e
  | .i2cRead sa e => startItem held :: .slaveRead sa :: v.bytes.map .i2cIn ++ endItems e
  | .intRead => []

/-- The wire items of a trace (R84). -/
def wireOf (held : Bool) : List Event → List WireItem
  | [] => []
  | .bus a v :: es => wireAction held v a ++ wireOf (heldAfter held a) es
  | .accept _ :: es | .respond _ _ :: es | .fault _ _ :: es => wireOf held es

end Sys2Proof.Machine
end

