-- ==== Sys2Proof/Safety.lean ====
section
/-!
DEFINITION. What claims about PCBS are stated in: good, bad and hung states (R201), the invariants
(R29, R43, R50, R70, R71, R81), the bus frames and bus-action counts as the spec's tables give them
(R84, R200), and the relation of states that differ only in registers no command reads before it
writes them (R42).
-/

namespace Sys2Proof.Machine

/-! ## Runs (R201) -/

/-- Good: BUSY = 0 and FAULT = 0 (R201). -/
abbrev State.good (s : State) : Prop := s.busy = false ∧ s.fault = false

/-- Bad: FAULT = 1 (R201). -/
abbrev State.bad (s : State) : Prop := s.fault = true

/-- Hung: between steps BUSY = 1 only while a bus action never completes (R49, R201). -/
abbrev State.hung (s : State) : Prop := s.busy = true

/-! ## Frames and counts, as the spec's tables give them -/

/-- The bus actions of one register read, with the byte d it yields (R56, R84). -/
def readFrame (mode : Mode) (slave a d : Byte) : List Event :=
  match mode with
  | .spi => [.bus (.csSet .low) .done, .bus (.spiWrite [a &&& 0xBF#8]) .done,
      .bus .spiRead (.byte d), .bus (.csSet .high) .done]
  | .i2c => [.bus (.i2cWrite slave [a] .restart) .done, .bus (.i2cRead slave .stop) (.byte d)]
  | .uninit => []

/-- The bus actions of one register write (R57, R84). -/
def writeFrame (mode : Mode) (slave a v : Byte) : List Event :=
  match mode with
  | .spi => [.bus (.csSet .low) .done, .bus (.spiWrite [a &&& 0x7F#8, v]) .done,
      .bus (.csSet .high) .done]
  | .i2c => [.bus (.i2cWrite slave [a, v] .stop) .done]
  | .uninit => []

/-- How many bus actions a register read takes (R56). -/
def readActions : Mode → Nat
  | .spi => 4
  | .i2c => 2
  | .uninit => 0

/-- How many bus actions a register write takes (R57). -/
def writeActions : Mode → Nat
  | .spi => 3
  | .i2c => 1
  | .uninit => 0

/-- How many register reads a command makes (R200). -/
def registerReads : Instr → Nat
  | .initSpi | .initI2c _ => 0
  | .readReg _ | .getConfig | .readId => 1
  | .writeReg _ _ => 0
  | .enable | .powerDown | .setOdr _ | .intCircuitOn | .intCircuitOff | .bduOn | .bduOff => 1
  | .deltaOn | .deltaOff | .spiIfMode _ | .rebootMode _ | .softReset => 1
  | .setIntCfg _ | .setConfig _ => 1
  | .getIntState => 0
  | .defaultConfig => 4
  | .getPressure => 3
  | .getTemperature => 2

/-- How many register writes a command makes (R200). -/
def registerWrites : Instr → Nat
  | .initSpi | .initI2c _ => 0
  | .readReg _ | .getConfig | .readId => 0
  | .writeReg _ _ => 1
  | .enable | .powerDown | .setOdr _ | .intCircuitOn | .intCircuitOff | .bduOn | .bduOff => 1
  | .deltaOn | .deltaOff | .spiIfMode _ | .rebootMode _ | .softReset => 1
  | .setIntCfg _ | .setConfig _ => 1
  | .getIntState => 0
  | .defaultConfig => 3
  | .getPressure | .getTemperature => 0

/-- R200's table: the bus actions of a command that passes its checks with MODE = `mode`.
INIT_SPI drives chip-select once, GET_INT_STATE reads the pin once, and every other action is part
of a register access. -/
def busActions (i : Instr) (mode : Mode) : Nat :=
  match i with
  | .initSpi | .getIntState => 1
  | _ => registerReads i * readActions mode + registerWrites i * writeActions mode

/-- The number of bus actions in a trace. -/
def countBus : List Event → Nat
  | [] => 0
  | .bus _ _ :: es => countBus es + 1
  | .accept _ :: es | .respond _ _ :: es | .fault _ _ :: es => countBus es

/-! ## Invariants -/

/-- The chip-select level between commands (R23, R43). -/
def restingCs : Mode → CsLevel
  | .spi => .high
  | .uninit | .i2c => .undriven

/-- R43, with BUSY = 0: STEP = 0, and CS_LVL follows MODE; and nothing is on the bus-action port. -/
abbrev IdleHolds (s : State) : Prop :=
  s.busy = false → s.stepIdx = 0#5 ∧ s.csLvl = restingCs s.mode ∧ s.port = none

/-- BUSY = 1 between steps: PCBS waits for an issued action of an initialised command, within the
25 actions of the longest command (R25, R49). -/
abbrev WaitHolds (s : State) : Prop :=
  s.busy = true → s.port ≠ none ∧ s.stall = some 0 ∧ s.mode ≠ .uninit ∧ s.stepIdx.toNat < 25

/-- The fault record (R29, R167): clear while FAULT = 0, and otherwise with a code, no response and
no command in progress. -/
abbrev FaultRecordHolds (s : State) : Prop :=
  (s.fault = false → s.faultCode = .none ∧ s.faultCmd = 0#24) ∧
  (s.fault = true → s.faultCode ≠ .none ∧ s.busy = false ∧ s.rspValid = false)

/-- RSP_DATA has the layout of RSP_KIND (R81). -/
abbrev ResponseHolds (s : State) : Prop :=
  match s.rspKind with
  | .none => s.rspData = 0#32
  | .byte => s.rspData.toNat < 256
  | .bool | .bit => s.rspData = 0#32 ∨ s.rspData = 1#32
  | .f32 => True

/-- The state invariant. -/
abbrev StateInv (s : State) : Prop :=
  IdleHolds s ∧ WaitHolds s ∧ FaultRecordHolds s ∧ ResponseHolds s

/-- Where a trace stands in the framing of R70 and R71. -/
inductive Framing where
  | atRest                 -- no transaction open
  | csOpen                 -- CsSet(LOW) seen
  | csAddressed            -- one SpiWrite of 1 byte seen: an SpiRead must follow
  | csMoved                -- the access of this window is over: CsSet(HIGH) must follow
  | restarted (sa : Byte)  -- an I2cWrite ended in RESTART: an I2cRead must follow
  | broken
  deriving DecidableEq, Repr

/-- The framing after one more event (R70, R71): one register access per chip-select window, and
after a RESTART at once an I2cRead to the same slave ending in STOP. -/
def Framing.next : Framing → Event → Framing
  | .atRest, .accept _ => .atRest
  | .atRest, .respond _ _ => .atRest
  | .atRest, .fault _ _ => .atRest
  | .atRest, .bus .intRead _ => .atRest
  | .atRest, .bus (.csSet .high) _ => .atRest
  | .atRest, .bus (.csSet .low) _ => .csOpen
  | .atRest, .bus (.i2cWrite _ _ .stop) _ => .atRest
  | .atRest, .bus (.i2cWrite sa _ .restart) _ => .restarted sa
  | .csOpen, .bus (.spiWrite [_]) _ => .csAddressed
  | .csOpen, .bus (.spiWrite [_, _]) _ => .csMoved
  | .csAddressed, .bus .spiRead _ => .csMoved
  | .csMoved, .bus (.csSet .high) _ => .atRest
  | .restarted sa, .bus (.i2cRead sa' .stop) _ => if sa' = sa then .atRest else .broken
  | _, _ => .broken

/-- The framing of a whole trace. -/
def framingOf (trace : List Event) : Framing := trace.foldl Framing.next .atRest

/-- R70 and R71: no frame is broken, and every command leaves the bus at rest. -/
abbrev FramingHolds (s : State) : Prop :=
  framingOf s.trace ≠ .broken ∧ (s.busy = false → framingOf s.trace = .atRest)

/-- The bus actions MODE and SLAVE allow (R50, R51, R54, R55, R58). -/
abbrev BusAction.allowed (mode : Mode) (slave : Byte) : BusAction → Prop
  | .csSet _ | .spiWrite _ | .spiRead => mode = .spi
  | .i2cWrite sa _ _ | .i2cRead sa _ => mode = .i2c ∧ sa = slave
  | .intRead => mode ≠ .uninit

/-- An event of the trace keeps to the transport of MODE (R50). -/
abbrev Event.allowed (mode : Mode) (slave : Byte) : Event → Prop
  | .bus a _ => a.allowed mode slave
  | .accept _ | .respond _ _ | .fault _ _ => True

/-- R50: since reset PCBS issued no action to a collaborator of the other transport, and none at
all before an INIT. -/
abbrev TransportHolds (s : State) : Prop := ∀ e ∈ s.trace, e.allowed s.mode s.slave

/-! ## Registers that cannot be observed (R42) -/

/-- The two states agree but for registers no later command reads before it writes them: CMD, ACC,
TMP and FAIL, and SLAVE unless MODE = I2C (R22, R24, R26, R27, R28, R43). -/
def SameButUnread (s t : State) : Prop :=
  (s.mode = .i2c → t.slave = s.slave) ∧
  t = { s with slave := t.slave, cmd := t.cmd, acc := t.acc, tmp := t.tmp, fail := t.fail }

/-! ## Register accesses, whichever transport carries them (R100) -/

/-- One register access. -/
inductive Access where
  | read (a d : Byte)
  | write (a v : Byte)
  deriving DecidableEq, Repr

/-- The register accesses of a trace, read off its frames (R84).  The address is the one on the
wire. -/
def accesses : List Event → List Access
  | .bus (.csSet .low) _ :: .bus (.spiWrite [a]) _ :: .bus .spiRead (.byte d) ::
      .bus (.csSet .high) _ :: es => .read a d :: accesses es
  | .bus (.csSet .low) _ :: .bus (.spiWrite [a, v]) _ :: .bus (.csSet .high) _ :: es =>
      .write a v :: accesses es
  | .bus (.i2cWrite _ [a] .restart) _ :: .bus (.i2cRead _ .stop) (.byte d) :: es =>
      .read a d :: accesses es
  | .bus (.i2cWrite _ [a, v] .stop) _ :: es => .write a v :: accesses es
  | _ :: es => accesses es
  | [] => []

end Sys2Proof.Machine
end

