-- ==== Sys2Proof/WellFormed.lean ====
section
/-!
DEFINITION. Which commands are well formed: every operand lies in the domain its rule gives.

R77 and R80: every operand byte is legal but for SPI_IF_MODE, whose mode "must be 3 or 4".  An
ill-formed command still decodes and still runs: it takes the fault BAD_ARGUMENT (R165).
-/

namespace Sys2Proof

/-- The operands lie in their domains (R77, R80). -/
def Instr.wellFormed : Instr → Bool
  | .spiIfMode mode => mode == 3#8 || mode == 4#8
  | .initSpi | .initI2c _ | .readReg _ | .writeReg _ _ => true
  | .enable | .powerDown | .setOdr _ | .intCircuitOn | .intCircuitOff => true
  | .bduOn | .bduOff | .deltaOn | .deltaOff => true
  | .rebootMode _ | .softReset | .setIntCfg _ | .setConfig _ => true
  | .getConfig | .readId | .getIntState | .defaultConfig => true
  | .getPressure | .getTemperature => true

end Sys2Proof
end

