-- ==== Sys2Proof/Certificates/Slice0/Obligations.lean ====
section
/-!
DEFINITION. The statements about the model.  Each docstring names the rule of spec/ it formalises.

Results are whole next states (`exec i s = .next t` with t written out), so each is a completion
statement and a frame at once: every field that t does not list is as in s.  They hold for every
state s, so for every value of the parameters in `s.cfg` and of every draw (`s.byteAt k`,
`s.levelAt k`): no statement needs a value of one (log entries 1 and 2).  The collaborators'
completing the actions is the hypothesis `s.completes n` (R49).
-/

open Sys2Proof Sys2Proof.Machine

namespace Sys2Proof.Spec

/-- Fault entry as R167 writes it. -/
def faulted (code : FaultCode) (s : State) : State :=
  { s with
    fault := true, faultCode := code, faultCmd := s.cmd
    rspValid := false, busy := false, stepIdx := 0#5
    trace := s.trace ++ [.fault code s.cmd] }

/-- What a command leaves that ran the bus actions `frames`, n of them with `reads` register reads,
on an initialised bus, and posted its response (R25, R30, R43, R81). -/
def replied (s : State) (frames : List Event) (reads n : Nat) (kind : RspKind) (data : Word32) :
    State :=
  { s with
    csLvl := if s.mode = .spi then .high else s.csLvl
    bytes := s.bytes.drop reads, draws := s.draws + reads
    stall := s.stall.map (· - n), port := none
    busy := false, stepIdx := 0#5
    rspValid := true, rspKind := kind, rspData := data
    trace := s.trace ++ frames ++ [.respond kind data] }

/-- A read-modify-write command: read `ar`, write w to `aw`, answer NONE (R105). -/
def afterRmw (s : State) (ar aw w : Byte) : State :=
  { replied s
      (readFrame s.mode s.slave ar (s.byteAt 0) ++ writeFrame s.mode s.slave aw w)
      1 (readActions s.mode + writeActions s.mode) .none 0#32 with
    tmp := s.byteAt 0 }

/-- A plain register read that answers the byte (R98, R120, R121). -/
def afterReadByte (s : State) (a : Byte) : State :=
  { replied s (readFrame s.mode s.slave a (s.byteAt 0)) 1 (readActions s.mode)
      .byte ((s.byteAt 0).setWidth 32) with
    tmp := s.byteAt 0 }

/-- The rule of a command that needs an INIT first: every word with its opcode decodes to it, with
MODE = UNINIT it faults (R163), and otherwise it completes in the given state. -/
def commandRule (opc : Byte) (ins : Byte → Byte → Instr) (actions : Mode → Nat)
    (result : Byte → Byte → State → State) : Prop :=
  ∀ op1 op2 : Byte,
    decode (cmdWord opc op1 op2) = .ok (ins op1 op2) ∧
    (∀ s : State, s.mode = .uninit →
      exec (ins op1 op2) s = .next (faulted .notInitialised s)) ∧
    (∀ s : State, s.mode ≠ .uninit → s.completes (actions s.mode) = true →
      exec (ins op1 op2) s = .next (result op1 op2 s))

/-- The rule of a read-modify-write command on one register (R105). -/
def rmwRule (opc : Byte) (ins : Byte → Byte → Instr) (ra : Config → Byte)
    (f : Byte → Byte → Byte) : Prop :=
  commandRule opc ins (fun m => readActions m + writeActions m)
    fun op1 _ s => afterRmw s (ra s.cfg) (ra s.cfg) (f op1 (s.byteAt 0))

/-- A command is an INIT (R166). -/
def initCommand (i : Instr) : Prop := i = .initSpi ∨ ∃ sa, i = .initI2c sa

/-- A command passes the checks of R166. -/
def passes (i : Instr) (mode : Mode) : Prop :=
  (initCommand i ↔ mode = .uninit) ∧ ∀ m, i = .spiIfMode m → m = 3#8 ∨ m = 4#8

/-- The 24 opcodes of R78. -/
def opcodes : List Byte :=
  [0x01#8, 0x02#8, 0x10#8, 0x11#8, 0x20#8, 0x21#8, 0x22#8, 0x23#8, 0x24#8, 0x25#8, 0x26#8, 0x27#8,
   0x28#8, 0x29#8, 0x30#8, 0x31#8, 0x32#8, 0x40#8, 0x41#8, 0x42#8, 0x43#8, 0x50#8, 0x60#8, 0x61#8]

/-- The bits of a command word that its command reads: OPC, and the operands R77 does not mark
ignored. -/
def readBits : Instr → CmdWord
  | .writeReg _ _ => 0xFFFFFF#24
  | .initI2c _ | .readReg _ | .setOdr _ | .spiIfMode _ | .rebootMode _ => 0xFFFF00#24
  | .setIntCfg _ | .setConfig _ => 0xFFFF00#24
  | _ => 0xFF0000#24

/-- The register a read-modify-write command reads and the one it writes (R105, R118). -/
def rmwTargets (cfg : Config) : Instr → Option (Byte × Byte)
  | .enable | .powerDown | .setOdr _ | .intCircuitOn | .intCircuitOff | .bduOn | .bduOff
  | .deltaOn | .deltaOff | .spiIfMode _ => some (cfg.raCtrlReg1, cfg.raCtrlReg1)
  | .rebootMode _ | .softReset => some (cfg.raCtrlReg2, cfg.raCtrlReg2)
  | .setIntCfg _ =>
    some (cfg.raIntCfgReg, if cfg.correctedIntCfg then cfg.raIntCfgReg else cfg.raCtrlReg2)
  | .setConfig _ => some (cfg.raResConfig, cfg.raResConfig)
  | _ => none

/-- R124's table: the mask M of a read-modify-write command, and the bits under M in the byte
written, given the byte t read. -/
def rmwField (t : Byte) : Instr → Option (Byte × Byte)
  | .enable => some (0x80#8, 0x80#8)
  | .powerDown => some (0x80#8, 0x00#8)
  | .setOdr r => some (0x70#8, BitVec.ofNat 8 (r.toNat % 8 * 16))
  | .intCircuitOn => some (0x08#8, 0x08#8)
  | .intCircuitOff => some (0x08#8, 0x00#8)
  | .bduOn => some (0x04#8, 0x04#8)
  | .bduOff => some (0x04#8, 0x00#8)
  | .deltaOn => some (0x02#8, 0x02#8)
  | .deltaOff => some (0x02#8, 0x00#8)
  | .spiIfMode m => if m = 4#8 then some (0x10#8, 0x00#8) else some (0x01#8, 0x01#8)
  | .rebootMode m => some (0x80#8, (t &&& 0x80#8) ||| BitVec.ofNat 8 (m.toNat % 2 * 128))
  | .softReset => some (0x04#8, 0x04#8)
  | .setConfig v => some (v, v)
  | .setIntCfg v => some (v, v)
  | _ => none

/-- The value of a fraction. -/
def ratOf (q : Frac) : ℚ := (q.num : ℚ) / (q.den : ℚ)

/-- A representation of a finite binary32 magnitude: 24 bits, no last bit below 2^-149 (R142). -/
def binary32 (x : B32) : Prop := x.mant < 2 ^ 24 ∧ -149 ≤ x.exp

/-- The SPI masks leave an address as it is (R10, R83). -/
def maskFree (a : Byte) : Prop := a &&& 0x3F#8 = a

/-- Every address a command puts on the bus is left as it is by the SPI masks. -/
def addressesMaskFree (i : Instr) (cfg : Config) : Prop :=
  maskFree cfg.raResConfig ∧ maskFree cfg.raCtrlReg1 ∧ maskFree cfg.raCtrlReg2 ∧
  maskFree cfg.raIntCfgReg ∧ maskFree cfg.raDeviceId ∧ maskFree cfg.raPressXlsb ∧
  maskFree cfg.raPressLsb ∧ maskFree cfg.raPressMsb ∧ maskFree cfg.raTempLsb ∧
  maskFree cfg.raTempMsb ∧
  (∀ a, i = .readReg a → maskFree a) ∧ (∀ a v, i = .writeReg a v → maskFree a)

/-- A start of a run: the registers as reset leaves them, with any parameters, any moves of the
outside world and any behaviour of the collaborators. -/
def startOfRun (cfg : Config) (inputs : List Input) (bytes : List Byte) (levels : List Bool)
    (draws : Nat) (stall : Option Nat) : State :=
  { State.reset with
    cfg := cfg, inputs := inputs, bytes := bytes, levels := levels, draws := draws, stall := stall }

/-- A bus action but for the data byte of a write frame. -/
def actionShape : BusAction → BusAction
  | .spiWrite [a, _] => .spiWrite [a, 0#8]
  | .i2cWrite sa [a, _] e => .i2cWrite sa [a, 0#8] e
  | a => a

/-- The bus actions of a trace, but for the data bytes written. -/
def shapesOf : List Event → List BusAction
  | [] => []
  | .bus a _ :: es => actionShape a :: shapesOf es
  | .accept _ :: es | .respond _ _ :: es | .fault _ _ :: es => shapesOf es

end Sys2Proof.Spec

open Sys2Proof.Spec

/-! ## Encoding -/

/-- R86: the encoding examples, read and written. -/
def Obligations.EncodingExamplesDecodeAndAssemble : Prop :=
  (decode 0x010000#24 = .ok .initSpi ∧ encode .initSpi = 0x010000#24) ∧
  (decode 0x025D00#24 = .ok (.initI2c 0x5D#8) ∧ encode (.initI2c 0x5D#8) = 0x025D00#24) ∧
  (decode 0x100F00#24 = .ok (.readReg 0x0F#8) ∧ encode (.readReg 0x0F#8) = 0x100F00#24) ∧
  (decode 0x220900#24 = .ok (.setOdr 9#8) ∧ encode (.setOdr 9#8) = 0x220900#24) ∧
  (decode 0x290400#24 = .ok (.spiIfMode 4#8) ∧ encode (.spiIfMode 4#8) = 0x290400#24) ∧
  (decode 0x500000#24 = .ok .defaultConfig ∧ encode .defaultConfig = 0x500000#24) ∧
  (decode 0x610000#24 = .ok .getTemperature ∧ encode .getTemperature = 0x610000#24)

/-- R78, R80, R82: a word is legal exactly when its OPC is one of the 24 opcodes. -/
def Obligations.LegalWordsHaveTheTwentyFourOpcodes : Prop :=
  opcodes.Nodup ∧ opcodes.length = 24 ∧
  ∀ opc op1 op2 : Byte,
    (opc ∈ opcodes → ∃ i, decode (cmdWord opc op1 op2) = .ok i) ∧
    (opc ∉ opcodes → decode (cmdWord opc op1 op2) = .error (.illegalOpcode opc))

/-- R75 to R78, R82, R85: every command survives encoding, with every operand at every value. -/
def Obligations.DecodeOfEncodeIsTheCommand : Prop :=
  ∀ i : Instr, decode (encode i) = .ok i

/-- R77, R79, R85: encoding what a word decodes to gives the word back, but for the operand bytes
its command ignores, which become 0. -/
def Obligations.EncodeOfDecodeKeepsTheReadBits : Prop :=
  ∀ (w : CmdWord) (i : Instr), decode w = .ok i → encode i = w &&& readBits i

/-- R79: two words that agree on the bits a command reads are the same command. -/
def Obligations.IgnoredOperandBitsChangeNothing : Prop :=
  ∀ (w w' : CmdWord) (i : Instr), decode w = .ok i → w &&& readBits i = w' &&& readBits i →
    decode w' = .ok i

/-! ## The step: acceptance, reset, response, pending commands -/

/-- R95, R24, R25: acceptance latches the offered word in CMD, sets BUSY, clears STEP and records
Accept, and the command the word decodes to runs.  The rest is the model's choice: that one step
takes the head of the host's moves (log entry 5, DESIGN CHOICE), that the same step is the whole of
exec (log entry 6, DESIGN CHOICE), and that RSP_VALID = 1, a response not yet taken, neither holds
up acceptance nor is cleared by it (log entry 8, DEDUCED). -/
def Obligations.StepAcceptsAndRunsTheDecodedCommand : Prop :=
  ∀ (s : State) (w : CmdWord) (rest : List Input) (i : Instr),
    s.busy = false → s.fault = false → s.inputs = .command w :: rest → decode w = .ok i →
    step s = exec i { s with
      inputs := rest, busy := true, cmd := w, stepIdx := 0#5, trace := s.trace ++ [.accept w] }

/-- R162, R167, R95: a word with any other opcode faults, in any MODE, with its word recorded and no
bus action.  The model's choice: that one step takes the head of the host's moves (log entry 5,
DESIGN CHOICE), that the same step accepts and faults (log entry 6, DESIGN CHOICE), and that the word
is accepted also while RSP_VALID = 1, a response not yet taken (log entry 8, DEDUCED). -/
def Obligations.IllegalOpcodeFaultsInAnyMode : Prop :=
  ∀ (s : State) (w : CmdWord) (rest : List Input),
    s.busy = false → s.fault = false → s.inputs = .command w :: rest →
    w.extractLsb' 16 8 ∉ opcodes →
    step s = .next { s with
      inputs := rest, cmd := w, stepIdx := 0#5
      fault := true, faultCode := .illegalOpcode, faultCmd := w, rspValid := false
      trace := s.trace ++ [.accept w, .fault .illegalOpcode w] }

/-- R42, R185: power-on reset, from any state, leaves the values R42 gives, issues no bus action,
and the next command is accepted.  The model's choice: that reset is a move, that a new trace
begins (log entry 7, DEDUCED), that acceptance is one step (log entries 5 and 6), and that the moves
behind the power-on stay, the command just after it being the next one offered (log entry 13,
DESIGN CHOICE). -/
def Obligations.PowerOnLeavesTheResetValues : Prop :=
  ∀ (s : State) (rest : List Input), s.inputs = .powerOn :: rest →
    ∃ t, step s = .next t ∧ t.inputs = rest ∧
      t.mode = .uninit ∧ t.csLvl = .undriven ∧ t.busy = false ∧ t.stepIdx = 0#5 ∧
      t.fault = false ∧ t.faultCode = .none ∧ t.faultCmd = 0x000000#24 ∧
      t.rspValid = false ∧ t.rspKind = .none ∧ t.rspData = 0x00000000#32 ∧
      t.trace = [] ∧ t.port = none ∧
      (∀ w more i, rest = .command w :: more → decode w = .ok i →
        step t = exec i { t with
          inputs := more, busy := true, cmd := w, stepIdx := 0#5, trace := [.accept w] })

/-- R42: the reset state itself holds the values R42 gives. -/
def Obligations.ResetStateHoldsTheResetValues : Prop :=
  State.reset.mode.code = 0#2 ∧ State.reset.csLvl.code = 0#2 ∧ State.reset.busy = false ∧
  State.reset.stepIdx = 0#5 ∧ State.reset.fault = false ∧ State.reset.faultCode.code = 0#3 ∧
  State.reset.faultCmd = 0x000000#24 ∧ State.reset.rspValid = false ∧
  State.reset.rspKind.code = 0#3 ∧ State.reset.rspData = 0x00000000#32 ∧
  State.reset.trace = [] ∧ State.reset.port = none

/-- R30: the host's acceptance of the response clears RSP_VALID.  R30 says no more: that it changes
nothing else, and that the response is taken whenever BUSY = 0, also while FAULT = 1, is the model's
choice (log entry 8, DEDUCED), and so is that it is the head of the host's moves (log entry 5). -/
def Obligations.TakingTheResponseClearsRspValid : Prop :=
  ∀ (s : State) (rest : List Input), s.busy = false → s.inputs = .takeResponse :: rest →
    step s = .next { s with inputs := rest, rspValid := false }

/-- R168: while FAULT = 1 a command is left pending and no event occurs; the fault record stays
until reset, and reset clears it.  The model's choice: that waiting is a step that changes nothing
(log entry 12, DEDUCED), also where a power-on lies behind the pending command (log entry 13,
DESIGN CHOICE). -/
def Obligations.FaultIsStickyUntilReset : Prop :=
  ∀ s : State, s.fault = true →
    (∀ w rest, s.inputs = .command w :: rest → step s = .next s) ∧
    (∀ t, step s = .next t → (∀ rest, s.inputs ≠ .powerOn :: rest) →
      t.fault = true ∧ t.faultCode = s.faultCode ∧ t.faultCmd = s.faultCmd ∧
      t.trace = s.trace ∧ t.port = s.port) ∧
    (∀ rest, s.inputs = .powerOn :: rest → ∃ t, step s = .next t ∧ t.fault = false)

/-- Every step answers a next state.  That is the model's choice of what a step is (log entry 12,
DEDUCED): R167 and R168 speak of the registers of a faulted PCBS and of a pending command, and R49
of waiting, none of the form of a step; the model makes each a next state, and no step stops. -/
def Obligations.EveryStepHasANextState : Prop :=
  ∀ s : State, ∃ t, step s = .next t

/-! ## Faults and waiting -/

/-- R163, R164, R165: which commands fault, and that no other one does. -/
def Obligations.ChecksRaiseTheirFaults : Prop :=
  ∀ (i : Instr) (s : State),
    (initCommand i → s.mode ≠ .uninit → exec i s = .next (faulted .alreadyInitialised s)) ∧
    (¬ initCommand i → s.mode = .uninit → exec i s = .next (faulted .notInitialised s)) ∧
    (∀ m, i = .spiIfMode m → m ≠ 3#8 → m ≠ 4#8 → s.mode ≠ .uninit →
      exec i s = .next (faulted .badArgument s)) ∧
    (passes i s.mode → ∀ t, exec i s = .next t →
      t.fault = s.fault ∧ t.faultCode = s.faultCode ∧ t.faultCmd = s.faultCmd)

/-- R49, R201: when the collaborators never complete the action after the k-th, a command with more
than k actions, accepted, waits: BUSY = 1, STEP counts the k completed actions, the action is on the
port, no response is posted and no fault raised; and the machine then stays in that state until
reset (R24, R25, R49).  The model's choice: `stall` says which action never completes (log entry 4,
DESIGN CHOICE); the wait is reached in the step that accepts (log entries 5 and 6); the response
registers stay as they were, and no response is taken while BUSY = 1 (log entry 8, DEDUCED); the
action waited for is on the port and not in the trace (log entry 10, DESIGN CHOICE); waiting is a
step that changes nothing (log entry 12, DEDUCED), also where a power-on lies behind the next move
(log entry 13, DESIGN CHOICE). -/
def Obligations.UncompletedActionWaitsForever : Prop :=
  (∀ (s : State) (w : CmdWord) (rest : List Input) (i : Instr) (k : Nat),
    s.busy = false → s.fault = false → s.inputs = .command w :: rest → decode w = .ok i →
    passes i s.mode → s.stall = some k → k < busActions i s.mode →
    ∃ t a, step s = .next t ∧ t.busy = true ∧ t.cmd = w ∧ t.port = some a ∧
      t.stepIdx = BitVec.ofNat 5 k ∧ countBus t.trace = countBus s.trace + k ∧
      t.rspValid = s.rspValid ∧ t.rspKind = s.rspKind ∧ t.rspData = s.rspData ∧
      t.fault = false ∧ t.stall = some 0) ∧
  (∀ s : State, s.busy = true → (∀ rest, s.inputs ≠ .powerOn :: rest) → step s = .next s)

/-- R25, R30, R200: every command that passes its checks and whose actions complete issues exactly
the number of bus actions of R200's table, posts its response, and returns BUSY and STEP to 0. -/
def Obligations.CommandsIssueTheirBusActions : Prop :=
  (∀ (i : Instr) (s : State), passes i s.mode → s.completes (busActions i s.mode) = true →
    ∃ t, exec i s = .next t ∧ countBus t.trace = countBus s.trace + busActions i s.mode ∧
      t.stall = s.stall.map (· - busActions i s.mode) ∧
      t.busy = false ∧ t.stepIdx = 0#5 ∧ t.rspValid = true ∧
      t.trace.getLast? = some (.respond t.rspKind t.rspData)) ∧
  (busActions .initSpi .uninit = 1 ∧ busActions (.initI2c 0#8) .uninit = 0 ∧
   busActions .getConfig .spi = 4 ∧ busActions .getConfig .i2c = 2 ∧
   busActions (.writeReg 0#8 0#8) .spi = 3 ∧ busActions (.writeReg 0#8 0#8) .i2c = 1 ∧
   busActions .enable .spi = 7 ∧ busActions .enable .i2c = 3 ∧
   busActions .getIntState .spi = 1 ∧ busActions .getIntState .i2c = 1 ∧
   busActions .defaultConfig .spi = 25 ∧ busActions .defaultConfig .i2c = 11 ∧
   busActions .getPressure .spi = 12 ∧ busActions .getPressure .i2c = 6 ∧
   busActions .getTemperature .spi = 8 ∧ busActions .getTemperature .i2c = 4)

/-! ## What each command does -/

/-- R96: INIT_SPI binds SPI and drives chip-select HIGH. -/
def Obligations.InitSpiBindsSpiAndRaisesCs : Prop :=
  (∀ op1 op2 : Byte, decode (cmdWord 0x01#8 op1 op2) = .ok .initSpi) ∧
  ∀ s : State,
    (s.mode ≠ .uninit → exec .initSpi s = .next (faulted .alreadyInitialised s)) ∧
    (s.mode = .uninit → s.completes 1 = true →
      exec .initSpi s = .next { s with
        mode := .spi, csLvl := .high, stall := s.stall.map (· - 1), port := none
        busy := false, stepIdx := 0#5, rspValid := true, rspKind := .none, rspData := 0#32
        trace := s.trace ++ [.bus (.csSet .high) .done, .respond .none 0#32] })

/-- R97: INIT_I2C stores the slave address and binds I2C, with no bus action. -/
def Obligations.InitI2cStoresTheSlaveAddress : Prop :=
  ∀ op1 op2 : Byte,
    decode (cmdWord 0x02#8 op1 op2) = .ok (.initI2c op1) ∧
    ∀ s : State,
      (s.mode ≠ .uninit → exec (.initI2c op1) s = .next (faulted .alreadyInitialised s)) ∧
      (s.mode = .uninit →
        exec (.initI2c op1) s = .next { s with
          slave := op1, mode := .i2c
          busy := false, stepIdx := 0#5, rspValid := true, rspKind := .none, rspData := 0#32
          trace := s.trace ++ [.respond .none 0#32] })

/-- R98: READ_REG answers the byte read. -/
def Obligations.ReadRegAnswersTheByteRead : Prop :=
  commandRule 0x10#8 (fun op1 _ => .readReg op1) readActions
    fun op1 _ s => afterReadByte s op1

/-- R99: WRITE_REG sends address and value and leaves TMP. -/
def Obligations.WriteRegSendsAddressAndValue : Prop :=
  commandRule 0x11#8 (fun op1 op2 => .writeReg op1 op2) writeActions
    fun op1 op2 s =>
      replied s (writeFrame s.mode s.slave op1 op2) 0 (writeActions s.mode) .none 0#32

/-- R106, R107, R109 to R114: the commands that set or clear one bit of CTRL_REG1. -/
def Obligations.CtrlReg1BitCommandsSetOrClearOneBit : Prop :=
  rmwRule 0x20#8 (fun _ _ => .enable) (·.raCtrlReg1) (fun _ t => t ||| 0x80#8) ∧
  rmwRule 0x21#8 (fun _ _ => .powerDown) (·.raCtrlReg1) (fun _ t => t &&& 0x7F#8) ∧
  rmwRule 0x23#8 (fun _ _ => .intCircuitOn) (·.raCtrlReg1) (fun _ t => t ||| 0x08#8) ∧
  rmwRule 0x24#8 (fun _ _ => .intCircuitOff) (·.raCtrlReg1) (fun _ t => t &&& 0xF7#8) ∧
  rmwRule 0x25#8 (fun _ _ => .bduOn) (·.raCtrlReg1) (fun _ t => t ||| 0x04#8) ∧
  rmwRule 0x26#8 (fun _ _ => .bduOff) (·.raCtrlReg1) (fun _ t => t &&& 0xFB#8) ∧
  rmwRule 0x27#8 (fun _ _ => .deltaOn) (·.raCtrlReg1) (fun _ t => t ||| 0x02#8) ∧
  rmwRule 0x28#8 (fun _ _ => .deltaOff) (·.raCtrlReg1) (fun _ t => t &&& 0xFD#8)

/-- R108: SET_ODR replaces bits 6:4 of CTRL_REG1 by the rate modulo 8. -/
def Obligations.SetOdrReplacesTheRateField : Prop :=
  rmwRule 0x22#8 (fun op1 _ => .setOdr op1) (·.raCtrlReg1)
    fun rate t => (t &&& 0x8F#8) ||| (BitVec.ofNat 8 (rate.toNat % 8) <<< 4)

/-- R115: SPI_IF_MODE 4 clears bit 4 of CTRL_REG1, SPI_IF_MODE 3 sets bit 0, and any other mode
faults. -/
def Obligations.SpiIfModeClearsBit4OrSetsBit0 : Prop :=
  (∀ op1 op2 : Byte, decode (cmdWord 0x29#8 op1 op2) = .ok (.spiIfMode op1)) ∧
  ∀ (op1 : Byte) (s : State),
    (s.mode = .uninit → exec (.spiIfMode op1) s = .next (faulted .notInitialised s)) ∧
    (s.mode ≠ .uninit → op1 ≠ 3#8 → op1 ≠ 4#8 →
      exec (.spiIfMode op1) s = .next (faulted .badArgument s)) ∧
    (s.mode ≠ .uninit → s.completes (readActions s.mode + writeActions s.mode) = true →
      (op1 = 4#8 → exec (.spiIfMode op1) s =
        .next (afterRmw s s.cfg.raCtrlReg1 s.cfg.raCtrlReg1 (s.byteAt 0 &&& 0xEF#8))) ∧
      (op1 = 3#8 → exec (.spiIfMode op1) s =
        .next (afterRmw s s.cfg.raCtrlReg1 s.cfg.raCtrlReg1 (s.byteAt 0 ||| 0x01#8))))

/-- R116, R117: REBOOT_MODE ORs the mode modulo 2 into bit 7 of CTRL_REG2; SOFT_RESET sets bit 2. -/
def Obligations.CtrlReg2CommandsSetBits : Prop :=
  rmwRule 0x30#8 (fun op1 _ => .rebootMode op1) (·.raCtrlReg2)
    (fun mode t => t ||| (BitVec.ofNat 8 (mode.toNat % 2) <<< 7)) ∧
  rmwRule 0x31#8 (fun _ _ => .softReset) (·.raCtrlReg2) (fun _ t => t ||| 0x04#8)

/-- R118, R12: SET_INT_CFG reads INT_CFG_REG and writes the OR to CTRL_REG2, or to INT_CFG_REG with
CORRECTED_INT_CFG. -/
def Obligations.SetIntCfgWritesTheConfiguredTarget : Prop :=
  commandRule 0x32#8 (fun op1 _ => .setIntCfg op1) (fun m => readActions m + writeActions m)
    fun op1 _ s => afterRmw s s.cfg.raIntCfgReg
      (if s.cfg.correctedIntCfg then s.cfg.raIntCfgReg else s.cfg.raCtrlReg2)
      (s.byteAt 0 ||| op1)

/-- R119: SET_CONFIG ORs its operand into RES_CONFIG. -/
def Obligations.SetConfigOrsIntoResConfig : Prop :=
  rmwRule 0x40#8 (fun op1 _ => .setConfig op1) (·.raResConfig) fun v t => t ||| v

/-- R120, R121: GET_CONFIG and READ_ID are plain reads. -/
def Obligations.GetConfigAndReadIdArePlainReads : Prop :=
  commandRule 0x41#8 (fun _ _ => .getConfig) readActions
    (fun _ _ s => afterReadByte s s.cfg.raResConfig) ∧
  commandRule 0x42#8 (fun _ _ => .readId) readActions
    (fun _ _ s => afterReadByte s s.cfg.raDeviceId)

/-- R122: GET_INT_STATE answers the pin level and touches no bus, no chip-select and no TMP. -/
def Obligations.GetIntStateAnswersThePinLevel : Prop :=
  commandRule 0x43#8 (fun _ _ => .getIntState) (fun _ => 1) fun _ _ s =>
    let data := if s.levelAt 0 then 0x00000001#32 else 0x00000000#32
    { s with
      levels := s.levels.drop 1, draws := s.draws + 1
      stall := s.stall.map (· - 1), port := none
      busy := false, stepIdx := 0#5, rspValid := true, rspKind := .bit, rspData := data
      trace := s.trace ++ [.bus .intRead (.level (s.levelAt 0)), .respond .bit data] }

/-- R123: DEFAULT_CONFIG issues its seven accesses in order whatever is read, and answers whether
all four checks matched. -/
def Obligations.DefaultConfigRunsAllChecks : Prop :=
  commandRule 0x50#8 (fun _ _ => .defaultConfig)
    (fun m => 4 * readActions m + 3 * writeActions m)
    fun _ _ s =>
      let rd (a : Byte) (k : Nat) := readFrame s.mode s.slave a (s.byteAt k)
      let wr (a v : Byte) := writeFrame s.mode s.slave a v
      let ok : Bool := s.byteAt 0 == 0x78#8 && s.byteAt 1 == 0x74#8 && s.byteAt 2 == 0xF4#8 &&
        s.byteAt 3 == 0xBB#8
      { replied s
          (wr s.cfg.raResConfig 0x78#8 ++ rd s.cfg.raResConfig 0 ++
           wr s.cfg.raCtrlReg1 0x74#8 ++ rd s.cfg.raCtrlReg1 1 ++
           wr s.cfg.raCtrlReg1 0xF4#8 ++ rd s.cfg.raCtrlReg1 2 ++ rd s.cfg.raDeviceId 3)
          4 (4 * readActions s.mode + 3 * writeActions s.mode)
          .bool (if ok then 0x00000001#32 else 0x00000000#32) with
        tmp := s.byteAt 3, fail := !ok }

/-- R170, R24, R95: a false DEFAULT_CONFIG result is an ordinary response and no fault, and PCBS
stays usable: the next command is accepted.  The model's choice: that it is accepted while its
predecessor's response is not yet taken, RSP_VALID = 1 (log entry 8, DEDUCED), and that one step
takes the head of the host's moves and is the whole of exec (log entries 5 and 6, DESIGN CHOICE). -/
def Obligations.FalseDefaultConfigIsNoFault : Prop :=
  ∀ s : State, s.mode ≠ .uninit → s.fault = false →
    s.completes (4 * readActions s.mode + 3 * writeActions s.mode) = true →
    (s.byteAt 0 ≠ 0x78#8 ∨ s.byteAt 1 ≠ 0x74#8 ∨ s.byteAt 2 ≠ 0xF4#8 ∨ s.byteAt 3 ≠ 0xBB#8) →
    ∃ t, exec .defaultConfig s = .next t ∧ t.rspValid = true ∧ t.rspKind = .bool ∧
      t.rspData = 0x00000000#32 ∧ t.good ∧
      ∀ w rest i, s.inputs = .command w :: rest → decode w = .ok i →
        step t = exec i { t with
          inputs := rest, busy := true, cmd := w, stepIdx := 0#5
          trace := t.trace ++ [.accept w] }

/-- R140, R143: GET_PRESSURE reads MSB, LSB, XLSB, composes them big-endian in ACC, and answers
n / 4096 in binary32. -/
def Obligations.GetPressureAnswersTheScaledSample : Prop :=
  commandRule 0x60#8 (fun _ _ => .getPressure) (fun m => 3 * readActions m) fun _ _ s =>
    let n : Nat := (s.byteAt 0).toNat * 65536 + (s.byteAt 1).toNat * 256 + (s.byteAt 2).toNat
    { replied s
        (readFrame s.mode s.slave s.cfg.raPressMsb (s.byteAt 0) ++
         readFrame s.mode s.slave s.cfg.raPressLsb (s.byteAt 1) ++
         readFrame s.mode s.slave s.cfg.raPressXlsb (s.byteAt 2))
        3 (3 * readActions s.mode)
        .f32 (bits32 (fdiv (itof n) (itof 4096))) with
      tmp := s.byteAt 2, acc := BitVec.ofNat 32 n }

/-- R141, R145, R146: GET_TEMPERATURE reads MSB, LSB, composes them big-endian in ACC, reads the
16 bits as two's complement, and answers t / 480 + 42.5 under TEMP_EVAL. -/
def Obligations.GetTemperatureAnswersTheScaledSample : Prop :=
  commandRule 0x61#8 (fun _ _ => .getTemperature) (fun m => 2 * readActions m) fun _ _ s =>
    let raw : Nat := (s.byteAt 0).toNat * 256 + (s.byteAt 1).toNat
    let t : Int := if raw < 32768 then raw else (raw : Int) - 65536
    let result : B32 := match s.cfg.tempEval with
      | .stepwiseB32 => fadd (fdiv (itof t) (itof 480)) (f32 ⟨85, 2⟩)
      | .correctlyRounded => f32 ((Frac.mk t 480).add ⟨85, 2⟩)
    { replied s
        (readFrame s.mode s.slave s.cfg.raTempMsb (s.byteAt 0) ++
         readFrame s.mode s.slave s.cfg.raTempLsb (s.byteAt 1))
        2 (2 * readActions s.mode) .f32 (bits32 result) with
      tmp := s.byteAt 1, acc := BitVec.ofNat 32 raw }

/-! ## The bytes on the bus -/

/-- R83, R84: the wire frames of a register read and a register write in both transports. -/
def Obligations.WireFramesMatchTheTable : Prop :=
  ∀ (a v : Byte) (s : State),
    (s.mode = .spi →
      (s.completes 4 = true → ∃ t seg, exec (.readReg a) s = .next t ∧ t.trace = s.trace ++ seg ∧
        wireOf false seg = [.cs .low, .spiOut (a &&& 0xBF#8), .spiIn (s.byteAt 0), .cs .high]) ∧
      (s.completes 3 = true → ∃ t seg, exec (.writeReg a v) s = .next t ∧ t.trace = s.trace ++ seg ∧
        wireOf false seg = [.cs .low, .spiOut (a &&& 0x7F#8), .spiOut v, .cs .high])) ∧
    (s.mode = .i2c →
      (s.completes 2 = true → ∃ t seg, exec (.readReg a) s = .next t ∧ t.trace = s.trace ++ seg ∧
        wireOf false seg = [.start, .slaveWrite s.slave, .i2cOut a,
          .repeatedStart, .slaveRead s.slave, .i2cIn (s.byteAt 0), .stop]) ∧
      (s.completes 1 = true → ∃ t seg, exec (.writeReg a v) s = .next t ∧ t.trace = s.trace ++ seg ∧
        wireOf false seg = [.start, .slaveWrite s.slave, .i2cOut a, .i2cOut v, .stop]))

/-- R124: every read-modify-write command reads one byte, writes one byte, keeps every bit outside
its mask, and gives the bits under the mask their listed values. -/
def Obligations.RmwPreservesBitsOutsideItsMask : Prop :=
  ∀ (i : Instr) (s : State) (ar aw m b : Byte),
    rmwTargets s.cfg i = some (ar, aw) → rmwField (s.byteAt 0) i = some (m, b) →
    passes i s.mode → s.completes (busActions i s.mode) = true →
    ∃ t w, exec i s = .next t ∧
      t.trace = s.trace ++ readFrame s.mode s.slave ar (s.byteAt 0) ++
        writeFrame s.mode s.slave aw w ++ [.respond .none 0#32] ∧
      w &&& ~~~m = s.byteAt 0 &&& ~~~m ∧ w &&& m = b

/-- R125: the laws of the write functions. -/
def Obligations.WriteFunctionsObeyTheirLaws : Prop :=
  ∀ t r v : Byte,
    (fEnable (fEnable t) = fEnable t ∧ fPowerDown (fPowerDown t) = fPowerDown t ∧
     fSetOdr r (fSetOdr r t) = fSetOdr r t ∧
     fIntCircuitOn (fIntCircuitOn t) = fIntCircuitOn t ∧
     fIntCircuitOff (fIntCircuitOff t) = fIntCircuitOff t ∧
     fBduOn (fBduOn t) = fBduOn t ∧ fBduOff (fBduOff t) = fBduOff t ∧
     fDeltaOn (fDeltaOn t) = fDeltaOn t ∧ fDeltaOff (fDeltaOff t) = fDeltaOff t ∧
     fSpiIf4 (fSpiIf4 t) = fSpiIf4 t ∧ fSpiIf3 (fSpiIf3 t) = fSpiIf3 t ∧
     fRebootMode r (fRebootMode r t) = fRebootMode r t ∧
     fSoftReset (fSoftReset t) = fSoftReset t ∧ fOrValue v (fOrValue v t) = fOrValue v t) ∧
    fSetOdr r t = fSetOdr (BitVec.ofNat 8 (r.toNat % 8)) t ∧
    fPowerDown (fEnable t) = t &&& 0x7F#8 ∧
    fSetOdr r (fSpiIf4 t) = fSetOdr r t ∧
    (fRebootMode 0#8 t &&& t = t ∧ fOrValue v t &&& t = t)

/-- R192, R193, R194: SPI_IF_MODE 4 makes an odd rate the even one below it and leaves bit 0 set;
SET_ODR after it restores the rate; REBOOT_MODE and the OR commands clear no bit. -/
def Obligations.ModeCommandsHaveTheirHazards : Prop :=
  ∀ t r v : Byte,
    (fSpiIf4 (fSetOdr r t)).extractLsb' 4 3 = BitVec.ofNat 3 (r.toNat % 8 - r.toNat % 2) ∧
    (fSetOdr r (fSpiIf4 t)).extractLsb' 4 3 = BitVec.ofNat 3 (r.toNat % 8) ∧
    (fSpiIf4 (fSpiIf3 t)).getLsbD 0 = true ∧
    fRebootMode r t &&& t = t ∧ fOrValue v t &&& t = t

/-- R101: which bus actions a command issues depends on the command, MODE, SLAVE and the parameters,
never on a value read: with any two histories of draws it issues the same actions, the data bytes
of its writes apart. -/
def Obligations.ReadValuesDoNotChangeTheActions : Prop :=
  ∀ (i : Instr) (s s' : State),
    s'.mode = s.mode → s'.slave = s.slave → s'.cfg = s.cfg →
    s.completes (busActions i s.mode) = true → s'.completes (busActions i s.mode) = true →
    ∃ t t' seg seg', exec i s = .next t ∧ exec i s' = .next t' ∧
      t.trace = s.trace ++ seg ∧ t'.trace = s'.trace ++ seg' ∧ shapesOf seg = shapesOf seg'

/-- R64, R100, R191: a command makes the same register accesses and posts the same response over
SPI and over I2C, when the SPI masks leave its addresses as they are. -/
def Obligations.TransportsCarryTheSameAccesses : Prop :=
  ∀ (i : Instr) (s : State) (slave : Byte) (cs : CsLevel),
    s.mode = .spi → passes i .spi → addressesMaskFree i s.cfg →
    s.completes (busActions i .spi) = true →
    ∃ t u segT segU, exec i s = .next t ∧
      exec i { s with mode := .i2c, slave := slave, csLvl := cs } = .next u ∧
      t.trace = s.trace ++ segT ∧ u.trace = s.trace ++ segU ∧
      accesses segT = accesses segU ∧
      t.rspKind = u.rspKind ∧ t.rspData = u.rspData ∧
      t.tmp = u.tmp ∧ t.acc = u.acc ∧ t.fail = u.fail

/-! ## Conversion -/

/-- R144: for every 24-bit sample `itof` is exact and the answered encoding is exactly n / 4096. -/
def Obligations.PressureIsExact : Prop :=
  ∀ n : Nat, n < 2 ^ 24 →
    ratOf (itof n).value = n ∧
    (valueOf32 (bits32 (fdiv (itof n) (itof 4096)))).den ≠ 0 ∧
    ratOf (valueOf32 (bits32 (fdiv (itof n) (itof 4096)))) = (n : ℚ) / 4096

/-- R17, R142: f32 gives a binary32 value, none is nearer to the exact number, and of two equally
near ones it gives the one with the even significand. -/
def Obligations.RoundingIsNearestTiesToEven : Prop :=
  ∀ q : Frac, q.den ≠ 0 →
    binary32 (f32 q) ∧
    ∀ y : B32, binary32 y →
      |ratOf (f32 q).value - ratOf q| ≤ |ratOf y.value - ratOf q| ∧
      (|ratOf (f32 q).value - ratOf q| = |ratOf y.value - ratOf q| →
        ratOf y.value = ratOf (f32 q).value ∨ (f32 q).mant % 2 = 0)

/-- R148: no result is a NaN, an infinity, a subnormal or -0.0. -/
def Obligations.NoSpecialMeasurement : Prop :=
  let ordinary (w : Word32) : Prop :=
    w = 0#32 ∨ (1 ≤ (w.extractLsb' 23 8).toNat ∧ (w.extractLsb' 23 8).toNat ≤ 254)
  (∀ n : Nat, n < 2 ^ 24 → ordinary (bits32 (fdiv (itof n) (itof 4096)))) ∧
  (∀ t : Int, -32768 ≤ t → t ≤ 32767 →
    ordinary (bits32 (temp .stepwiseB32 t)) ∧ ordinary (bits32 (temp .correctlyRounded t)))

/-- R148: every pressure lies in [0, 4095.999755859375], and every temperature between the
temperatures of the two extreme samples, under either evaluation. -/
def Obligations.MeasurementsStayInRange : Prop :=
  (∀ n : Nat, n < 2 ^ 24 →
    0 ≤ ratOf (fdiv (itof n) (itof 4096)).value ∧
    ratOf (fdiv (itof n) (itof 4096)).value ≤ 4095.999755859375) ∧
  (∀ (m : TempEval) (t : Int), -32768 ≤ t → t ≤ 32767 →
    ratOf (temp m (-32768)).value ≤ ratOf (temp m t).value ∧
    ratOf (temp m t).value ≤ ratOf (temp m 32767).value)

/-- R147: the two temperature evaluations differ, at t = 1924 and at t = -20403. -/
def Obligations.TemperatureEvaluationsDiffer : Prop :=
  bits32 (temp .stepwiseB32 1924) = 0x423A0888#32 ∧
  bits32 (temp .correctlyRounded 1924) = 0x423A0889#32 ∧
  ratOf (valueOf32 (bits32 (temp .stepwiseB32 (-20403)))) = -0.00624847412109375 ∧
  bits32 (temp .correctlyRounded (-20403)) = 0xBBCCCCCD#32

/-! ## Frames and whole-machine rules -/

/-- R95, R21, R22, R26 to R29: no command, however it ends, writes a register its rule does not
name. -/
def Obligations.CommandsWriteOnlyTheirRegisters : Prop :=
  ∀ (i : Instr) (s t : State), exec i s = .next t →
    t.cfg = s.cfg ∧ t.cmd = s.cmd ∧ t.inputs = s.inputs ∧
    (¬ initCommand i → t.mode = s.mode ∧ t.slave = s.slave) ∧
    (i = .initSpi → t.slave = s.slave) ∧
    (i ≠ .getPressure → i ≠ .getTemperature → t.acc = s.acc) ∧
    (i ≠ .defaultConfig → t.fail = s.fail) ∧
    (initCommand i ∨ i = .getIntState ∨ (∃ a v, i = .writeReg a v) → t.tmp = s.tmp) ∧
    (i ≠ .getIntState → t.levels = s.levels) ∧
    (i ≠ .initSpi → s.mode ≠ .spi → t.csLvl = s.csLvl) ∧
    (i = .getIntState → t.csLvl = s.csLvl) ∧
    (∃ seg, t.trace = s.trace ++ seg)

/-- R21, R33: once MODE is not UNINIT, only reset changes MODE or SLAVE. -/
def Obligations.BusBindingIsWriteOnce : Prop :=
  ∀ s t : State, s.mode ≠ .uninit → (∀ rest, s.inputs ≠ .powerOn :: rest) → step s = .next t →
    t.mode = s.mode ∧ t.slave = s.slave

/-- The reset state meets the invariants. -/
def Obligations.ResetMeetsTheInvariants : Prop :=
  StateInv State.reset ∧ FramingHolds State.reset ∧ TransportHolds State.reset

/-- R43, R25, R29, R81: every step keeps the state invariant: STEP and CS_LVL between commands, the
waiting state, the fault record and the response layout. -/
def Obligations.StepKeepsTheInvariant : Prop :=
  ∀ s t : State, StateInv s → step s = .next t → StateInv t

/-- R70, R71: every step keeps the framing of the bus: no chip-select window holds more or less
than one register access, and every RESTART is followed at once by its read. -/
def Obligations.StepKeepsTheFraming : Prop :=
  ∀ s t : State, FramingHolds s → step s = .next t → FramingHolds t

/-- R50, R51, R54, R55: every step keeps to the transport of MODE and to the slave address SLAVE. -/
def Obligations.StepKeepsToItsTransport : Prop :=
  ∀ s t : State, TransportHolds s → step s = .next t → TransportHolds t

/-- R43, R50, R70, R71: along every run from reset, with any parameters, any moves of the outside
world and any behaviour of the collaborators, the invariants hold.  That no step stops is the
model's choice (log entry 12, DEDUCED). -/
def Obligations.EveryRunFromResetKeepsTheInvariants : Prop :=
  ∀ (cfg : Config) (inputs : List Input) (bytes : List Byte) (levels : List Bool) (draws : Nat)
    (stall : Option Nat) (k : Nat),
    ∃ t, Host.Core.run Sys2Proof.core k (startOfRun cfg inputs bytes levels draws stall) = .next t ∧
      StateInv t ∧ FramingHolds t ∧ TransportHolds t

/-- R42, R43 (R22, R24, R26, R27, R28): the registers R42 leaves unspecified cannot be observed.
Two states that differ only in them step to states that differ only in them: same trace, same
response, same fault record. -/
def Obligations.UnspecifiedRegistersCannotBeObserved : Prop :=
  ∀ s s' t : State, SameButUnread s s' → step s = .next t →
    ∃ t', step s' = .next t' ∧ SameButUnread t t'
end

