-- ==== Sys2Proof/Laws/State.lean ====
section
/-!
SUPPORT. The small lemmas of the state updates: one per field and update, so that no later proof
unfolds one.
-/

namespace Sys2Proof.Machine

@[simp] theorem raiseFault_cfg (code : FaultCode) (s : State) : (raiseFault code s).cfg = s.cfg := rfl
@[simp] theorem raiseFault_mode (code : FaultCode) (s : State) : (raiseFault code s).mode = s.mode := rfl
@[simp] theorem raiseFault_slave (code : FaultCode) (s : State) : (raiseFault code s).slave = s.slave := rfl
@[simp] theorem raiseFault_csLvl (code : FaultCode) (s : State) : (raiseFault code s).csLvl = s.csLvl := rfl
@[simp] theorem raiseFault_busy (code : FaultCode) (s : State) : (raiseFault code s).busy = false := rfl
@[simp] theorem raiseFault_cmd (code : FaultCode) (s : State) : (raiseFault code s).cmd = s.cmd := rfl
@[simp] theorem raiseFault_stepIdx (code : FaultCode) (s : State) : (raiseFault code s).stepIdx = 0#5 := rfl
@[simp] theorem raiseFault_acc (code : FaultCode) (s : State) : (raiseFault code s).acc = s.acc := rfl
@[simp] theorem raiseFault_tmp (code : FaultCode) (s : State) : (raiseFault code s).tmp = s.tmp := rfl
@[simp] theorem raiseFault_fail (code : FaultCode) (s : State) : (raiseFault code s).fail = s.fail := rfl
@[simp] theorem raiseFault_fault (code : FaultCode) (s : State) : (raiseFault code s).fault = true := rfl
@[simp] theorem raiseFault_faultCode (code : FaultCode) (s : State) : (raiseFault code s).faultCode = code := rfl
@[simp] theorem raiseFault_faultCmd (code : FaultCode) (s : State) : (raiseFault code s).faultCmd = s.cmd := rfl
@[simp] theorem raiseFault_rspValid (code : FaultCode) (s : State) : (raiseFault code s).rspValid = false := rfl
@[simp] theorem raiseFault_rspKind (code : FaultCode) (s : State) : (raiseFault code s).rspKind = s.rspKind := rfl
@[simp] theorem raiseFault_rspData (code : FaultCode) (s : State) : (raiseFault code s).rspData = s.rspData := rfl
@[simp] theorem raiseFault_port (code : FaultCode) (s : State) : (raiseFault code s).port = s.port := rfl
@[simp] theorem raiseFault_trace (code : FaultCode) (s : State) : (raiseFault code s).trace = s.trace ++ [.fault code s.cmd] := rfl
@[simp] theorem raiseFault_inputs (code : FaultCode) (s : State) : (raiseFault code s).inputs = s.inputs := rfl
@[simp] theorem raiseFault_bytes (code : FaultCode) (s : State) : (raiseFault code s).bytes = s.bytes := rfl
@[simp] theorem raiseFault_levels (code : FaultCode) (s : State) : (raiseFault code s).levels = s.levels := rfl
@[simp] theorem raiseFault_draws (code : FaultCode) (s : State) : (raiseFault code s).draws = s.draws := rfl
@[simp] theorem raiseFault_stall (code : FaultCode) (s : State) : (raiseFault code s).stall = s.stall := rfl

@[simp] theorem accept_cfg (w : CmdWord) (s : State) : (accept w s).cfg = s.cfg := rfl
@[simp] theorem accept_mode (w : CmdWord) (s : State) : (accept w s).mode = s.mode := rfl
@[simp] theorem accept_slave (w : CmdWord) (s : State) : (accept w s).slave = s.slave := rfl
@[simp] theorem accept_csLvl (w : CmdWord) (s : State) : (accept w s).csLvl = s.csLvl := rfl
@[simp] theorem accept_busy (w : CmdWord) (s : State) : (accept w s).busy = true := rfl
@[simp] theorem accept_cmd (w : CmdWord) (s : State) : (accept w s).cmd = w := rfl
@[simp] theorem accept_stepIdx (w : CmdWord) (s : State) : (accept w s).stepIdx = 0#5 := rfl
@[simp] theorem accept_acc (w : CmdWord) (s : State) : (accept w s).acc = s.acc := rfl
@[simp] theorem accept_tmp (w : CmdWord) (s : State) : (accept w s).tmp = s.tmp := rfl
@[simp] theorem accept_fail (w : CmdWord) (s : State) : (accept w s).fail = s.fail := rfl
@[simp] theorem accept_fault (w : CmdWord) (s : State) : (accept w s).fault = s.fault := rfl
@[simp] theorem accept_faultCode (w : CmdWord) (s : State) : (accept w s).faultCode = s.faultCode := rfl
@[simp] theorem accept_faultCmd (w : CmdWord) (s : State) : (accept w s).faultCmd = s.faultCmd := rfl
@[simp] theorem accept_rspValid (w : CmdWord) (s : State) : (accept w s).rspValid = s.rspValid := rfl
@[simp] theorem accept_rspKind (w : CmdWord) (s : State) : (accept w s).rspKind = s.rspKind := rfl
@[simp] theorem accept_rspData (w : CmdWord) (s : State) : (accept w s).rspData = s.rspData := rfl
@[simp] theorem accept_port (w : CmdWord) (s : State) : (accept w s).port = s.port := rfl
@[simp] theorem accept_trace (w : CmdWord) (s : State) : (accept w s).trace = s.trace ++ [.accept w] := rfl
@[simp] theorem accept_inputs (w : CmdWord) (s : State) : (accept w s).inputs = s.inputs.tail := rfl
@[simp] theorem accept_bytes (w : CmdWord) (s : State) : (accept w s).bytes = s.bytes := rfl
@[simp] theorem accept_levels (w : CmdWord) (s : State) : (accept w s).levels = s.levels := rfl
@[simp] theorem accept_draws (w : CmdWord) (s : State) : (accept w s).draws = s.draws := rfl
@[simp] theorem accept_stall (w : CmdWord) (s : State) : (accept w s).stall = s.stall := rfl

@[simp] theorem takeResponse_cfg (s : State) : (takeResponse s).cfg = s.cfg := rfl
@[simp] theorem takeResponse_mode (s : State) : (takeResponse s).mode = s.mode := rfl
@[simp] theorem takeResponse_slave (s : State) : (takeResponse s).slave = s.slave := rfl
@[simp] theorem takeResponse_csLvl (s : State) : (takeResponse s).csLvl = s.csLvl := rfl
@[simp] theorem takeResponse_busy (s : State) : (takeResponse s).busy = s.busy := rfl
@[simp] theorem takeResponse_cmd (s : State) : (takeResponse s).cmd = s.cmd := rfl
@[simp] theorem takeResponse_stepIdx (s : State) : (takeResponse s).stepIdx = s.stepIdx := rfl
@[simp] theorem takeResponse_acc (s : State) : (takeResponse s).acc = s.acc := rfl
@[simp] theorem takeResponse_tmp (s : State) : (takeResponse s).tmp = s.tmp := rfl
@[simp] theorem takeResponse_fail (s : State) : (takeResponse s).fail = s.fail := rfl
@[simp] theorem takeResponse_fault (s : State) : (takeResponse s).fault = s.fault := rfl
@[simp] theorem takeResponse_faultCode (s : State) : (takeResponse s).faultCode = s.faultCode := rfl
@[simp] theorem takeResponse_faultCmd (s : State) : (takeResponse s).faultCmd = s.faultCmd := rfl
@[simp] theorem takeResponse_rspValid (s : State) : (takeResponse s).rspValid = false := rfl
@[simp] theorem takeResponse_rspKind (s : State) : (takeResponse s).rspKind = s.rspKind := rfl
@[simp] theorem takeResponse_rspData (s : State) : (takeResponse s).rspData = s.rspData := rfl
@[simp] theorem takeResponse_port (s : State) : (takeResponse s).port = s.port := rfl
@[simp] theorem takeResponse_trace (s : State) : (takeResponse s).trace = s.trace := rfl
@[simp] theorem takeResponse_inputs (s : State) : (takeResponse s).inputs = s.inputs.tail := rfl
@[simp] theorem takeResponse_bytes (s : State) : (takeResponse s).bytes = s.bytes := rfl
@[simp] theorem takeResponse_levels (s : State) : (takeResponse s).levels = s.levels := rfl
@[simp] theorem takeResponse_draws (s : State) : (takeResponse s).draws = s.draws := rfl
@[simp] theorem takeResponse_stall (s : State) : (takeResponse s).stall = s.stall := rfl

@[simp] theorem powerOn_cfg (s : State) : (powerOn s).cfg = s.cfg := rfl
@[simp] theorem powerOn_mode (s : State) : (powerOn s).mode = .uninit := rfl
@[simp] theorem powerOn_slave (s : State) : (powerOn s).slave = 0#8 := rfl
@[simp] theorem powerOn_csLvl (s : State) : (powerOn s).csLvl = .undriven := rfl
@[simp] theorem powerOn_busy (s : State) : (powerOn s).busy = false := rfl
@[simp] theorem powerOn_cmd (s : State) : (powerOn s).cmd = 0#24 := rfl
@[simp] theorem powerOn_stepIdx (s : State) : (powerOn s).stepIdx = 0#5 := rfl
@[simp] theorem powerOn_acc (s : State) : (powerOn s).acc = 0#32 := rfl
@[simp] theorem powerOn_tmp (s : State) : (powerOn s).tmp = 0#8 := rfl
@[simp] theorem powerOn_fail (s : State) : (powerOn s).fail = false := rfl
@[simp] theorem powerOn_fault (s : State) : (powerOn s).fault = false := rfl
@[simp] theorem powerOn_faultCode (s : State) : (powerOn s).faultCode = .none := rfl
@[simp] theorem powerOn_faultCmd (s : State) : (powerOn s).faultCmd = 0#24 := rfl
@[simp] theorem powerOn_rspValid (s : State) : (powerOn s).rspValid = false := rfl
@[simp] theorem powerOn_rspKind (s : State) : (powerOn s).rspKind = .none := rfl
@[simp] theorem powerOn_rspData (s : State) : (powerOn s).rspData = 0#32 := rfl
@[simp] theorem powerOn_port (s : State) : (powerOn s).port = none := rfl
@[simp] theorem powerOn_trace (s : State) : (powerOn s).trace = [] := rfl
@[simp] theorem powerOn_inputs (s : State) : (powerOn s).inputs = s.inputs.tail := rfl
@[simp] theorem powerOn_bytes (s : State) : (powerOn s).bytes = s.bytes := rfl
@[simp] theorem powerOn_levels (s : State) : (powerOn s).levels = s.levels := rfl
@[simp] theorem powerOn_draws (s : State) : (powerOn s).draws = s.draws := rfl
@[simp] theorem powerOn_stall (s : State) : (powerOn s).stall = s.stall := rfl

@[simp] theorem Flow.state_running (s : State) : (Flow.running s).state = s := rfl
@[simp] theorem Flow.state_waiting (s : State) : (Flow.waiting s).state = s := rfl
@[simp] theorem Flow.running_andThen (s : State) (k : State → Flow) :
    (Flow.running s).andThen k = k s := rfl
@[simp] theorem Flow.waiting_andThen (s : State) (k : State → Flow) :
    (Flow.waiting s).andThen k = .waiting s := rfl
@[simp] theorem runAll_nil (s : State) : runAll [] s = .running s := rfl
@[simp] theorem runAll_cons (f : State → Flow) (fs : List (State → Flow)) (s : State) :
    runAll (f :: fs) s = (f s).andThen (runAll fs) := rfl

end Sys2Proof.Machine
end

