-- ==== Sys2Proof/Laws/Ops.lean ====
section
/-!
SUPPORT. One specification lemma per shared operation: everything it can do, for provers to cite
instead of unfolding it.

`Does f s evs t` says all of it for a statement f in a state s: if the collaborators complete its
bus actions evs it runs on in t, and otherwise it waits with exactly the completed ones in the
trace.  `Does.andThen` composes two statements.
-/

namespace Sys2Proof.Machine

/-! ## Completion of bus actions -/

theorem completes_iff (s : State) (n : Nat) :
    s.completes n = true ↔ ∀ k, s.stall = some k → n ≤ k := by
  unfold State.completes
  cases s.stall <;> simp

theorem not_completes_iff (s : State) (n : Nat) :
    s.completes n = false ↔ ∃ k, s.stall = some k ∧ k < n := by
  unfold State.completes
  cases s.stall <;> simp

/-- The k-th draw after one register read is the draw after it. -/
theorem byteAt_tail (s : State) (k : Nat) :
    ((s.bytes.tail)[k]?).getD (Config.freeByte (s.draws + 1 + k)) = s.byteAt (k + 1) := by
  simp [State.byteAt, Nat.add_comm, Nat.add_left_comm]

/-! ## What a statement can do -/

/-- t agrees with s on every register that no statement between acceptance and response writes, but
for those that say where the command stands (STEP, the port, the trace, the draws) and its working
registers ACC, TMP and FAIL; CS_LVL moves only when MODE = SPI. -/
structure Agree (s t : State) : Prop where
  cfg : t.cfg = s.cfg
  mode : t.mode = s.mode
  slave : t.slave = s.slave
  busy : t.busy = s.busy
  cmd : t.cmd = s.cmd
  fault : t.fault = s.fault
  faultCode : t.faultCode = s.faultCode
  faultCmd : t.faultCmd = s.faultCmd
  rspValid : t.rspValid = s.rspValid
  rspKind : t.rspKind = s.rspKind
  rspData : t.rspData = s.rspData
  inputs : t.inputs = s.inputs
  csLvl : s.mode ≠ .spi → t.csLvl = s.csLvl

theorem Agree.refl (s : State) : Agree s s := by constructor <;> intros <;> rfl

theorem Agree.trans {s t u : State} (h : Agree s t) (k : Agree t u) : Agree s u where
  cfg := k.cfg.trans h.cfg
  mode := k.mode.trans h.mode
  slave := k.slave.trans h.slave
  busy := k.busy.trans h.busy
  cmd := k.cmd.trans h.cmd
  fault := k.fault.trans h.fault
  faultCode := k.faultCode.trans h.faultCode
  faultCmd := k.faultCmd.trans h.faultCmd
  rspValid := k.rspValid.trans h.rspValid
  rspKind := k.rspKind.trans h.rspKind
  rspData := k.rspData.trans h.rspData
  inputs := k.inputs.trans h.inputs
  csLvl := fun m => (k.csLvl (h.mode ▸ m)).trans (h.csLvl m)

/-- t is s after the completed bus actions `evs`. -/
structure Advanced (s t : State) (evs : List Event) : Prop where
  agree : Agree s t
  trace : t.trace = s.trace ++ evs
  stepIdx : t.stepIdx = s.stepIdx + BitVec.ofNat 5 evs.length
  stall : t.stall = s.stall.map (· - evs.length)

theorem Advanced.trans {s t u : State} {es fs : List Event}
    (h : Advanced s t es) (k : Advanced t u fs) : Advanced s u (es ++ fs) where
  agree := h.agree.trans k.agree
  trace := by rw [k.trace, h.trace, List.append_assoc]
  stepIdx := by
    rw [k.stepIdx, h.stepIdx, List.length_append, BitVec.ofNat_add, BitVec.add_assoc]
  stall := by
    rw [k.stall, h.stall, List.length_append]
    cases s.stall <;> simp [Nat.sub_sub]

theorem Advanced.completes {s t : State} {es : List Event} (h : Advanced s t es) (n : Nat)
    (c : s.completes (es.length + n) = true) : t.completes n = true := by
  rw [completes_iff] at c ⊢
  intro k hk
  rw [h.stall] at hk
  cases hs : s.stall with
  | none => simp [hs] at hk
  | some j =>
    simp [hs] at hk
    have := c j hs
    omega

/-- Everything a statement can do in s, m being the flow it gives: with its bus actions `evs`
completed it runs on in t; with only k of them completed, it waits after those k. -/
structure Does (m : Flow) (s : State) (evs : List Event) (t : State) : Prop where
  advanced : Advanced s t evs
  runs : s.completes evs.length = true → m = .running t
  waits : ∀ k, s.stall = some k → k < evs.length →
    ∃ u a, m = .waiting u ∧ u.port = some a ∧ Advanced s u (evs.take k)

theorem Does.andThen {m : Flow} {g : State → Flow} {s t u : State} {es fs : List Event}
    (hf : Does m s es t) (hg : Does (g t) t fs u) : Does (m.andThen g) s (es ++ fs) u where
  advanced := hf.advanced.trans hg.advanced
  runs := by
    intro c
    rw [List.length_append] at c
    have c1 : s.completes es.length = true := by
      rw [completes_iff] at c ⊢
      intro k hk
      have := c k hk
      omega
    rw [hf.runs c1, Flow.running_andThen]
    exact hg.runs (hf.advanced.completes _ c)
  waits := by
    intro k hk hlt
    rw [List.length_append] at hlt
    by_cases h : k < es.length
    · obtain ⟨v, a, hv, hp, had⟩ := hf.waits k hk h
      refine ⟨v, a, by rw [hv]; rfl, hp, ?_⟩
      rwa [List.take_append_of_le_length (Nat.le_of_lt h)]
    · have c1 : s.completes es.length = true := by
        rw [completes_iff]
        intro j hj
        rw [hk] at hj
        cases hj
        omega
      have ht : t.stall = some (k - es.length) := by rw [hf.advanced.stall, hk]; rfl
      obtain ⟨v, a, hv, hp, had⟩ := hg.waits (k - es.length) ht (by omega)
      refine ⟨v, a, by rw [hf.runs c1]; exact hv, hp, ?_⟩
      rw [List.take_append, List.take_of_length_le (by omega)]
      exact hf.advanced.trans had

/-- A statement that issues no bus action. -/
theorem Does.silent {s t : State} (ha : Agree s t) (ht : t.trace = s.trace)
    (hx : t.stepIdx = s.stepIdx) (hs : t.stall = s.stall) : Does (.running t) s [] t where
  advanced := ⟨ha, by simp [ht], by simp [hx], by rw [hs]; cases s.stall <;> simp⟩
  runs := fun _ => rfl
  waits := fun k _ hlt => by simp at hlt

theorem Does.nil (s : State) : Does (.running s) s [] s := .silent (.refl s) rfl rfl rfl

/-- The last statement of a list. -/
theorem Does.last {f : State → Flow} {s t : State} {es : List Event} (h : Does (f s) s es t) :
    Does (runAll [f] s) s es t := by
  have d := h.andThen (g := runAll []) (.nil t)
  rwa [List.append_nil] at d

/-! ## The shared operations -/

/-- Everything a bus action can do; `CsSet` needs MODE = SPI (R51). -/
theorem perform_does (a : BusAction) (s : State)
    (hc : (∃ l, a = .csSet l) → s.mode = .spi) :
    Does (perform a s) s [.bus a (answerOf a s)] (complete a s) where
  advanced := by
    refine ⟨?_, by cases a <;> rfl, by cases a <;> rfl, by cases a <;> rfl⟩
    cases a with
    | csSet l => constructor <;> first | rfl | exact fun h => absurd (hc ⟨l, rfl⟩) h
    | _ => constructor <;> intros <;> rfl
  runs := fun c => by simp only [List.length_singleton] at c; simp [perform, c]
  waits := fun k hk hlt => by
    have h0 : k = 0 := by simp at hlt; omega
    subst h0
    refine ⟨{ s with port := some a }, a, by simp [perform, State.completes, hk], rfl, ?_⟩
    exact ⟨by constructor <;> intros <;> rfl, by simp, by simp, by simp [hk]⟩

/-- A read that writes TMP. -/
theorem readByte_does (a : BusAction) (s : State)
    (hc : (∃ l, a = .csSet l) → s.mode = .spi) :
    Does (readByte a s) s [.bus a (answerOf a s)] { complete a s with tmp := s.byteAt 0 } := by
  have d := (perform_does a s hc).andThen
    (g := fun t => .running { t with tmp := s.byteAt 0 }) (fs := [])
    (u := { complete a s with tmp := s.byteAt 0 })
    (.silent (by constructor <;> intros <;> rfl) rfl rfl rfl)
  rwa [List.append_nil] at d

/-- The state after completed bus actions `evs` on an initialised bus, `reads` register reads among
them, with TMP then holding `tmp` (R25, R27, R43). -/
def moved (s : State) (evs : List Event) (reads : Nat) (tmp : Byte) : State :=
  { s with
    port := none
    stepIdx := s.stepIdx + BitVec.ofNat 5 evs.length
    stall := s.stall.map (· - evs.length)
    csLvl := if s.mode = .spi then .high else s.csLvl
    tmp := tmp
    bytes := s.bytes.drop reads
    draws := s.draws + reads
    trace := s.trace ++ evs }

@[simp] theorem moved_cfg (s : State) (es : List Event) (r : Nat) (t : Byte) :
    (moved s es r t).cfg = s.cfg := rfl
@[simp] theorem moved_mode (s : State) (es : List Event) (r : Nat) (t : Byte) :
    (moved s es r t).mode = s.mode := rfl
@[simp] theorem moved_slave (s : State) (es : List Event) (r : Nat) (t : Byte) :
    (moved s es r t).slave = s.slave := rfl
@[simp] theorem moved_tmp (s : State) (es : List Event) (r : Nat) (t : Byte) :
    (moved s es r t).tmp = t := rfl
@[simp] theorem moved_fail (s : State) (es : List Event) (r : Nat) (t : Byte) :
    (moved s es r t).fail = s.fail := rfl
@[simp] theorem moved_acc (s : State) (es : List Event) (r : Nat) (t : Byte) :
    (moved s es r t).acc = s.acc := rfl

/-- The draws left after `reads` reads are the later ones. -/
@[simp] theorem moved_byteAt (s : State) (es : List Event) (r : Nat) (t : Byte) (k : Nat) :
    (moved s es r t).byteAt k = s.byteAt (r + k) := by
  simp [State.byteAt, moved, Nat.add_assoc]

/-- `FAIL <- b`. -/
def withFail (b : Bool) (s : State) : State := { s with fail := b }

@[simp] theorem withFail_cfg (b : Bool) (s : State) : (withFail b s).cfg = s.cfg := rfl
@[simp] theorem withFail_mode (b : Bool) (s : State) : (withFail b s).mode = s.mode := rfl
@[simp] theorem withFail_slave (b : Bool) (s : State) : (withFail b s).slave = s.slave := rfl
@[simp] theorem withFail_tmp (b : Bool) (s : State) : (withFail b s).tmp = s.tmp := rfl
@[simp] theorem withFail_fail (b : Bool) (s : State) : (withFail b s).fail = b := rfl
@[simp] theorem withFail_byteAt (b : Bool) (s : State) (k : Nat) :
    (withFail b s).byteAt k = s.byteAt k := rfl
@[simp] theorem withFail_withFail (b c : Bool) (s : State) :
    withFail b (withFail c s) = withFail b s := rfl

/-- `ACC <- raw`. -/
def withAcc (raw : Word32) (s : State) : State := { s with acc := raw }

@[simp] theorem withAcc_cfg (raw : Word32) (s : State) : (withAcc raw s).cfg = s.cfg := rfl
@[simp] theorem withAcc_acc (raw : Word32) (s : State) : (withAcc raw s).acc = raw := rfl

/-- Two runs of bus actions are one. -/
@[simp] theorem moved_moved (s : State) (es fs : List Event) (r q : Nat) (t u : Byte) :
    moved (moved s es r t) fs q u = moved s (es ++ fs) (r + q) u := by
  simp only [moved, List.drop_drop, List.append_assoc, Nat.add_assoc, List.length_append,
    BitVec.ofNat_add, BitVec.add_assoc, Option.map_map, Function.comp_def, Nat.sub_sub]
  congr 1
  split <;> rfl

@[simp] theorem moved_withFail (s : State) (es : List Event) (r : Nat) (t : Byte) (b : Bool) :
    moved (withFail b s) es r t = withFail b (moved s es r t) := rfl

theorem Does.congr {m : Flow} {s t t' : State} {es es' : List Event}
    (h : Does m s es t) (he : es = es') (ht : t = t') : Does m s es' t' := he ▸ ht ▸ h

@[simp] theorem readFrame_length (m : Mode) (sa a d : Byte) :
    (readFrame m sa a d).length = readActions m := by cases m <;> rfl

@[simp] theorem writeFrame_length (m : Mode) (sa a v : Byte) :
    (writeFrame m sa a v).length = writeActions m := by cases m <;> rfl

/-- Everything `MemRead(a, 1)` can do on an initialised bus (R56). -/
theorem memRead_does (a : Byte) (s : State) (hm : s.mode ≠ .uninit) :
    Does (memRead a s) s (readFrame s.mode s.slave a (s.byteAt 0))
      (moved s (readFrame s.mode s.slave a (s.byteAt 0)) 1 (s.byteAt 0)) := by
  unfold memRead
  cases h : s.mode with
  | uninit => exact absurd h hm
  | spi =>
    refine ((perform_does (.csSet .low) s fun _ => h).andThen
      ((perform_does (.spiWrite [spiReadAddr a]) _ (by simp)).andThen
        ((readByte_does .spiRead _ (by simp)).andThen
          (perform_does (.csSet .high) _ (by exact fun _ => h)).last))).congr ?_ ?_
    · simp [readFrame, answerOf, spiReadAddr, State.byteAt, complete]
    · simp [moved, h, complete, readFrame, answerOf, BitVec.add_assoc,
        spiReadAddr, Level.toCs, State.byteAt, Nat.sub_sub, Function.comp_def]
  | i2c =>
    refine ((perform_does (.i2cWrite s.slave [a] .restart) s (by simp)).andThen
      (readByte_does (.i2cRead s.slave .stop) _ (by simp)).last).congr ?_ ?_
    · simp [readFrame, answerOf, State.byteAt, complete]
    · simp [moved, h, complete, readFrame, answerOf, BitVec.add_assoc,
        State.byteAt, Nat.sub_sub, Function.comp_def]

/-- Everything `MemWrite(a, 1, v)` can do on an initialised bus (R57). -/
theorem memWrite_does (a v : Byte) (s : State) (hm : s.mode ≠ .uninit) :
    Does (memWrite a v s) s (writeFrame s.mode s.slave a v)
      (moved s (writeFrame s.mode s.slave a v) 0 s.tmp) := by
  unfold memWrite
  cases h : s.mode with
  | uninit => exact absurd h hm
  | spi =>
    refine ((perform_does (.csSet .low) s fun _ => h).andThen
      ((perform_does (.spiWrite [spiWriteAddr a, v]) _ (by simp)).andThen
        (perform_does (.csSet .high) _ (by exact fun _ => h)).last)).congr ?_ ?_
    · simp [writeFrame, answerOf, spiWriteAddr]
    · simp [moved, h, complete, writeFrame, answerOf, BitVec.add_assoc,
        spiWriteAddr, Level.toCs, Nat.sub_sub, Function.comp_def]
  | i2c =>
    refine (perform_does (.i2cWrite s.slave [a, v] .stop) s (by simp)).congr ?_ ?_
    · simp [writeFrame, answerOf]
    · simp [moved, h, complete, writeFrame, answerOf]

/-- The bus actions of a read-modify-write (R105). -/
def rmwFrame (s : State) (ar aw : Byte) (f : Byte → Byte) : List Event :=
  readFrame s.mode s.slave ar (s.byteAt 0) ++ writeFrame s.mode s.slave aw (f (s.byteAt 0))

/-- Everything a read-modify-write can do on an initialised bus (R105). -/
theorem rmw_does (ar aw : Byte) (f : Byte → Byte) (s : State) (hm : s.mode ≠ .uninit) :
    Does (rmw ar aw f s) s (rmwFrame s ar aw f)
      (moved s (rmwFrame s ar aw f) 1 (s.byteAt 0)) :=
  ((memRead_does ar s hm).andThen (g := fun t => memWrite aw (f t.tmp) t)
    (memWrite_does aw (f (s.byteAt 0)) _ (by exact hm))).congr rfl (by simp [rmwFrame])

/-- `FAIL <- 0` issues no bus action (R123). -/
theorem clearFail_does (s : State) : Does (clearFail s) s [] (withFail false s) :=
  .silent (by constructor <;> intros <;> rfl) rfl rfl rfl

/-- A check of DEFAULT_CONFIG issues no bus action (R123). -/
theorem expectTmp_does (v : Byte) (s : State) :
    Does (expectTmp v s) s [] (withFail (failAfter v s.tmp s.fail) s) :=
  .silent (by constructor <;> intros <;> rfl) rfl rfl rfl

/-- `ACC <- raw` issues no bus action (R140, R141). -/
theorem setAcc_does (raw : Word32) (s : State) : Does (setAcc raw s) s [] (withAcc raw s) :=
  .silent (by constructor <;> intros <;> rfl) rfl rfl rfl

/-- The bus actions of a write and its readback (R123). -/
def checkFrame (s : State) (a v : Byte) (k : Nat) : List Event :=
  writeFrame s.mode s.slave a v ++ readFrame s.mode s.slave a (s.byteAt k)

/-- Everything one write, readback and check of DEFAULT_CONFIG can do (R123). -/
theorem writeAndCheck_does (a v : Byte) (s : State) (hm : s.mode ≠ .uninit) :
    Does (writeAndCheck a v s) s (checkFrame s a v 0)
      (withFail (failAfter v (s.byteAt 0) s.fail)
        (moved s (checkFrame s a v 0) 1 (s.byteAt 0))) := by
  refine ((memWrite_does a v s hm).andThen
    ((memRead_does a _ (by exact hm)).andThen (expectTmp_does v _).last)).congr ?_ ?_
  · simp [checkFrame]
  · simp [checkFrame]

/-! ## The bodies with more than one register access -/

theorem Flow.andThen_assoc (m : Flow) (f g : State → Flow) :
    (m.andThen f).andThen g = m.andThen fun s => (f s).andThen g := by cases m <;> rfl

/-- The bus actions of DEFAULT_CONFIG (R123). -/
def defaultConfigFrame (s : State) : List Event :=
  checkFrame s s.cfg.raResConfig 0x78#8 0 ++ (checkFrame s s.cfg.raCtrlReg1 0x74#8 1 ++
    (checkFrame s s.cfg.raCtrlReg1 0xF4#8 2 ++
      readFrame s.mode s.slave s.cfg.raDeviceId (s.byteAt 3)))

/-- FAIL after the four checks of DEFAULT_CONFIG (R123). -/
def defaultConfigFail (s : State) : Bool :=
  failAfter 0xBB#8 (s.byteAt 3) (failAfter 0xF4#8 (s.byteAt 2)
    (failAfter 0x74#8 (s.byteAt 1) (failAfter 0x78#8 (s.byteAt 0) false)))

/-- Everything the statements of DEFAULT_CONFIG before its response can do (R123). -/
theorem defaultConfigChecks_does (s : State) (hm : s.mode ≠ .uninit) :
    Does (runAll [clearFail, writeAndCheck s.cfg.raResConfig 0x78#8,
        writeAndCheck s.cfg.raCtrlReg1 0x74#8, writeAndCheck s.cfg.raCtrlReg1 0xF4#8,
        memRead s.cfg.raDeviceId, expectTmp 0xBB#8] s) s (defaultConfigFrame s)
      (withFail (defaultConfigFail s) (moved s (defaultConfigFrame s) 4 (s.byteAt 3))) := by
  refine ((clearFail_does s).andThen ((writeAndCheck_does _ _ _ (by exact hm)).andThen
    ((writeAndCheck_does _ _ _ (by exact hm)).andThen
      ((writeAndCheck_does _ _ _ (by exact hm)).andThen
        ((memRead_does _ _ (by exact hm)).andThen (expectTmp_does _ _).last))))).congr ?_ ?_
  · simp [defaultConfigFrame, checkFrame]
  · simp [defaultConfigFrame, defaultConfigFail, checkFrame]

theorem runAll_snoc (fs : List (State → Flow)) (g : State → Flow) (s : State) :
    runAll (fs ++ [g]) s = (runAll fs s).andThen g := by
  induction fs generalizing s with
  | nil =>
    simp only [List.nil_append, runAll_cons, runAll_nil, Flow.running_andThen]
    cases g s <;> rfl
  | cons f fs ih =>
    simp only [List.cons_append, runAll_cons, Flow.andThen_assoc]
    congr 1
    funext t
    exact ih t

/-- The bus actions of GET_PRESSURE (R143). -/
def pressureFrame (s : State) : List Event :=
  readFrame s.mode s.slave s.cfg.raPressMsb (s.byteAt 0) ++
    (readFrame s.mode s.slave s.cfg.raPressLsb (s.byteAt 1) ++
      readFrame s.mode s.slave s.cfg.raPressXlsb (s.byteAt 2))

/-- The statements of GET_PRESSURE before its response (R143). -/
def pressureSample (s : State) : Flow :=
  (memRead s.cfg.raPressMsb s).andThen fun s2 =>
  (memRead s.cfg.raPressLsb s2).andThen fun s1 =>
  (memRead s.cfg.raPressXlsb s1).andThen fun s0 =>
  setAcc (assemblePressure s2.tmp s1.tmp s0.tmp) s0

theorem pressureBody_eq (s : State) :
    pressureBody s = (pressureSample s).andThen respondPressure := by
  simp only [pressureBody, pressureSample, Flow.andThen_assoc]
  rfl

/-- Everything the statements of GET_PRESSURE before its response can do (R140, R143). -/
theorem pressureSample_does (s : State) (hm : s.mode ≠ .uninit) :
    Does (pressureSample s) s (pressureFrame s)
      (withAcc (assemblePressure (s.byteAt 0) (s.byteAt 1) (s.byteAt 2))
        (moved s (pressureFrame s) 3 (s.byteAt 2))) := by
  have d0 (b2 b1 a : Byte) (s : State) (hm : s.mode ≠ .uninit) :=
    (memRead_does a s hm).andThen (g := fun s0 => setAcc (assemblePressure b2 b1 s0.tmp) s0)
      (setAcc_does _ _)
  have d1 (b2 a1 a0 : Byte) (s : State) (hm : s.mode ≠ .uninit) :=
    (memRead_does a1 s hm).andThen (g := fun s1 =>
      (memRead a0 s1).andThen fun s0 => setAcc (assemblePressure b2 s1.tmp s0.tmp) s0)
      (d0 b2 _ a0 _ hm)
  refine Does.congr ((memRead_does s.cfg.raPressMsb s hm).andThen (g := fun s2 =>
    (memRead s.cfg.raPressLsb s2).andThen fun s1 =>
    (memRead s.cfg.raPressXlsb s1).andThen fun s0 =>
    setAcc (assemblePressure s2.tmp s1.tmp s0.tmp) s0)
    (d1 (s.byteAt 0) s.cfg.raPressLsb s.cfg.raPressXlsb _ hm)) ?_ ?_
  · simp [pressureFrame]
  · simp [pressureFrame]

/-- The bus actions of GET_TEMPERATURE (R145). -/
def temperatureFrame (s : State) : List Event :=
  readFrame s.mode s.slave s.cfg.raTempMsb (s.byteAt 0) ++
    readFrame s.mode s.slave s.cfg.raTempLsb (s.byteAt 1)

/-- The statements of GET_TEMPERATURE before its response (R145). -/
def temperatureSample (s : State) : Flow :=
  (memRead s.cfg.raTempMsb s).andThen fun s1 =>
  (memRead s.cfg.raTempLsb s1).andThen fun s0 =>
  setAcc (assembleTemperature s1.tmp s0.tmp) s0

theorem temperatureBody_eq (s : State) :
    temperatureBody s = (temperatureSample s).andThen respondTemperature := by
  simp only [temperatureBody, temperatureSample, Flow.andThen_assoc]
  rfl

/-- Everything the statements of GET_TEMPERATURE before its response can do (R141, R145). -/
theorem temperatureSample_does (s : State) (hm : s.mode ≠ .uninit) :
    Does (temperatureSample s) s (temperatureFrame s)
      (withAcc (assembleTemperature (s.byteAt 0) (s.byteAt 1))
        (moved s (temperatureFrame s) 2 (s.byteAt 1))) := by
  have d0 (b1 a : Byte) (s : State) (hm : s.mode ≠ .uninit) :=
    (memRead_does a s hm).andThen (g := fun s0 => setAcc (assembleTemperature b1 s0.tmp) s0)
      (setAcc_does _ _)
  refine Does.congr ((memRead_does s.cfg.raTempMsb s hm).andThen (g := fun s1 =>
    (memRead s.cfg.raTempLsb s1).andThen fun s0 =>
    setAcc (assembleTemperature s1.tmp s0.tmp) s0)
    (d0 (s.byteAt 0) s.cfg.raTempLsb _ hm)) ?_ ?_
  · simp [temperatureFrame]
  · simp [temperatureFrame]

/-! ## The envelope -/

/-- The state after `respond(kind, data)` (R30, R95). -/
def responded (kind : RspKind) (data : Word32) (s : State) : State := (respond kind data s).state

@[simp] theorem respond_eq (kind : RspKind) (data : Word32) (s : State) :
    respond kind data s = .running (responded kind data s) := rfl

/-- A command that fails its check takes the fault and nothing else (R166, R167). -/
theorem runCommand_fault {i : Instr} {body : State → Flow} {s : State} {code : FaultCode}
    (h : check i s.mode = some code) : runCommand i body s = .next (raiseFault code s) := by
  simp [runCommand, h]

/-- A command that passes its check runs its body (R95). -/
theorem runCommand_ok {i : Instr} {body : State → Flow} {s : State}
    (h : check i s.mode = none) : runCommand i body s = .next (body s).state := by
  simp [runCommand, h]

/-- A body whose actions complete runs its last statement. -/
theorem Does.completed {m : Flow} {g : State → Flow} {s t : State} {es : List Event}
    (h : Does m s es t) (c : s.completes es.length = true) : (m.andThen g).state = (g t).state := by
  rw [h.runs c, Flow.running_andThen]

/-- A body whose actions do not all complete stays with the completed ones. -/
theorem Does.stuck {m : Flow} {g : State → Flow} {s t : State} {es : List Event} {k : Nat}
    (h : Does m s es t) (hk : s.stall = some k) (hlt : k < es.length) :
    (m.andThen g).state.port ≠ none ∧ Advanced s (m.andThen g).state (es.take k) := by
  obtain ⟨u, a, hu, hp, ha⟩ := h.waits k hk hlt
  rw [hu]
  exact ⟨by simp [hp], ha⟩

end Sys2Proof.Machine
end

