-- ==== Sys2Proof/Laws/Commands.lean ====
section
/-!
SUPPORT. What every command can do, said once: `exec_cases` (the faults of its check, or its bus
actions and then its response), for provers to cite instead of unfolding 24 meanings.
-/

namespace Sys2Proof.Machine

/-- Two statements, one after the other. -/
theorem runAll_pair (f g : State → Flow) (s : State) : runAll [f, g] s = (f s).andThen g := by
  rw [← List.singleton_append, runAll_snoc, runAll_cons]
  cases f s <;> rfl

/-- A statement that follows matters only in the state it runs in. -/
theorem Does.andThen_congr {m : Flow} {g g' : State → Flow} {s t : State} {es : List Event}
    (h : Does m s es t) (hg : g t = g' t) : m.andThen g = m.andThen g' := by
  by_cases c : s.completes es.length = true
  · rw [h.runs c, Flow.running_andThen, Flow.running_andThen, hg]
  · obtain ⟨k, hk, hlt⟩ := (not_completes_iff s _).mp (by simpa using c)
    obtain ⟨u, a, hu, -, -⟩ := h.waits k hk hlt
    rw [hu]
    rfl

/-! ## The framing of the bus actions of a command (R70, R71) -/

/-- Bus actions that start and end with the bus at rest, no prefix of them breaking a frame. -/
def Clean (evs : List Event) : Prop :=
  evs.foldl Framing.next .atRest = .atRest ∧
  ∀ k, (evs.take k).foldl Framing.next .atRest ≠ .broken

theorem Clean.append {es fs : List Event} (h : Clean es) (k : Clean fs) : Clean (es ++ fs) := by
  refine ⟨by rw [List.foldl_append, h.1, k.1], fun n => ?_⟩
  rw [List.take_append, List.foldl_append]
  by_cases hn : n ≤ es.length
  · rw [Nat.sub_eq_zero_of_le hn]
    exact h.2 n
  · rw [List.take_of_length_le (by omega), h.1]
    exact k.2 _

theorem Clean.nil : Clean [] := ⟨rfl, by simp⟩

/-- Finitely many prefixes decide it. -/
theorem clean_of_prefixes {evs : List Event}
    (h : evs.foldl Framing.next .atRest = .atRest)
    (hp : ∀ p ∈ evs.inits, p.foldl Framing.next .atRest ≠ .broken) : Clean evs :=
  ⟨h, fun k => hp _ (by rw [List.mem_inits]; exact List.take_prefix k evs)⟩

theorem readFrame_clean (m : Mode) (sa a d : Byte) : Clean (readFrame m sa a d) := by
  apply clean_of_prefixes <;> cases m <;> simp [readFrame, Framing.next]

theorem writeFrame_clean (m : Mode) (sa a v : Byte) : Clean (writeFrame m sa a v) := by
  apply clean_of_prefixes <;> cases m <;> simp [writeFrame, Framing.next]

/-! ## The transport of the bus actions of a command (R50) -/

/-- A bus action that MODE and SLAVE allow. -/
def Event.onBus (mode : Mode) (slave : Byte) (e : Event) : Prop :=
  ∃ a v, e = .bus a v ∧ a.allowed mode slave

theorem readFrame_onBus (m : Mode) (sa a d : Byte) : ∀ e ∈ readFrame m sa a d, e.onBus m sa := by
  cases m <;> simp [readFrame, Event.onBus, BusAction.allowed]

theorem writeFrame_onBus (m : Mode) (sa a v : Byte) : ∀ e ∈ writeFrame m sa a v, e.onBus m sa := by
  cases m <;> simp [writeFrame, Event.onBus, BusAction.allowed]

/-! ## Every command -/

/-- RSP_DATA has the layout of its kind (R81). -/
def layout (kind : RspKind) (data : Word32) : Prop :=
  match kind with
  | .none => data = 0#32
  | .byte => data.toNat < 256
  | .bool | .bit => data = 0#32 ∨ data = 1#32
  | .f32 => True

/-- What a command that passes its checks does in s: it binds the bus when it is an INIT (s0), runs
the bus actions evs, which leave t, and posts its response. -/
structure Command (i : Instr) (s s0 t : State) (m : Flow) (evs : List Event) (kind : RspKind)
    (data : Word32) : Prop where
  start : s0 = s ∨ (i = .initSpi ∧ s0 = { s with mode := .spi }) ∨
    ∃ sa, i = .initI2c sa ∧ s0 = { s with slave := sa, mode := .i2c }
  does : Does m s0 evs t
  exec_eq : exec i s = .next (m.andThen (respond kind data)).state
  count : evs.length = busActions i s.mode
  onBus : ∀ e ∈ evs, e.onBus s0.mode s0.slave
  clean : Clean evs
  initialised : s0.mode ≠ .uninit
  cs : s.csLvl = restingCs s.mode → t.csLvl = restingCs s0.mode
  port : s.port = none → t.port = none
  data_layout : layout kind data

theorem mode_of_check {i : Instr} {m : Mode} (h : check i m = none) (hi : isInit i = false) :
    m ≠ .uninit := by
  rintro rfl
  simp [check, hi] at h

theorem moved_cs (s : State) (evs : List Event) (r : Nat) (tmp : Byte) (hm : s.mode ≠ .uninit)
    (h : s.csLvl = restingCs s.mode) : (moved s evs r tmp).csLvl = restingCs s.mode := by
  cases hmode : s.mode <;> simp_all [moved, restingCs]

theorem zext32_lt (b : Byte) : (zext32 b).toNat < 256 := by
  simp only [zext32, BitVec.toNat_setWidth]
  omega

/-- A command that needs an initialised bus, with bus actions `evs` that are whole frames. -/
theorem command_of {i : Instr} {s : State} {m : Flow} {evs : List Event} {t : State}
    {g : State → Flow} {kind : RspKind} {data : Word32}
    (h : check i s.mode = none) (hi : isInit i = false) (hd : Does m s evs t)
    (hexec : exec i s = .next (m.andThen g).state) (hg : g t = respond kind data t)
    (hc : evs.length = busActions i s.mode) (hb : ∀ e ∈ evs, e.onBus s.mode s.slave)
    (hclean : Clean evs) (hcs : s.csLvl = restingCs s.mode → t.csLvl = restingCs s.mode)
    (hport : s.port = none → t.port = none) (hl : layout kind data) :
    Command i s s t m evs kind data where
  start := .inl rfl
  does := hd
  exec_eq := by rw [hexec, hd.andThen_congr hg]
  count := hc
  onBus := hb
  clean := hclean
  initialised := mode_of_check h hi
  cs := hcs
  port := hport
  data_layout := hl

/-- A read-modify-write command (R105). -/
theorem rmw_command {i : Instr} {s : State} {ar aw : Byte} {f : Byte → Byte}
    (h : check i s.mode = none) (hi : isInit i = false)
    (hexec : exec i s = runCommand i (runAll [rmw ar aw f, respond .none 0#32]) s)
    (hc : busActions i s.mode = readActions s.mode + writeActions s.mode) :
    Command i s s (moved s (rmwFrame s ar aw f) 1 (s.byteAt 0)) (rmw ar aw f s)
      (rmwFrame s ar aw f) .none 0#32 := by
  refine command_of h hi (rmw_does ar aw f s (mode_of_check h hi)) (g := respond .none 0#32)
    (by rw [hexec, runCommand_ok h, runAll_pair]) rfl (by simp [rmwFrame, hc]) ?_
    ((readFrame_clean _ _ _ _).append (writeFrame_clean _ _ _ _))
    (moved_cs _ _ _ _ (mode_of_check h hi)) (fun _ => rfl) rfl
  intro e he
  rcases List.mem_append.mp he with he | he
  · exact readFrame_onBus _ _ _ _ e he
  · exact writeFrame_onBus _ _ _ _ e he

/-- A plain register read that answers the byte (R98, R120, R121). -/
theorem read_command {i : Instr} {s : State} {a : Byte}
    (h : check i s.mode = none) (hi : isInit i = false)
    (hexec : exec i s = runCommand i (runAll [memRead a, respondTmp]) s)
    (hc : busActions i s.mode = readActions s.mode) :
    Command i s s (moved s (readFrame s.mode s.slave a (s.byteAt 0)) 1 (s.byteAt 0)) (memRead a s)
      (readFrame s.mode s.slave a (s.byteAt 0)) .byte (zext32 (s.byteAt 0)) :=
  command_of h hi (memRead_does a s (mode_of_check h hi)) (g := respondTmp)
    (by rw [hexec, runCommand_ok h, runAll_pair]) rfl (by simp [hc]) (readFrame_onBus _ _ _ _)
    (readFrame_clean _ _ _ _) (moved_cs _ _ _ _ (mode_of_check h hi)) (fun _ => rfl) (zext32_lt _)

/-- WRITE_REG (R99). -/
theorem write_command {s : State} {a v : Byte} (h : check (.writeReg a v) s.mode = none) :
    Command (.writeReg a v) s s (moved s (writeFrame s.mode s.slave a v) 0 s.tmp) (memWrite a v s)
      (writeFrame s.mode s.slave a v) .none 0#32 :=
  command_of h rfl (memWrite_does a v s (mode_of_check h rfl)) (g := respond .none 0#32)
    (by rw [exec, execWriteReg, runCommand_ok h, runAll_pair]) rfl
    (by simp [busActions, registerReads, registerWrites]) (writeFrame_onBus _ _ _ _)
    (writeFrame_clean _ _ _ _) (moved_cs _ _ _ _ (mode_of_check h rfl)) (fun _ => rfl) rfl

/-- GET_INT_STATE (R122). -/
theorem int_command {s : State} (h : check .getIntState s.mode = none) :
    Command .getIntState s s (complete .intRead s) (perform .intRead s)
      [.bus .intRead (.level (s.levelAt 0))] .bit (bitResult (s.levelAt 0)) :=
  command_of h rfl (perform_does .intRead s (by simp)) (g := respond .bit (bitResult (s.levelAt 0)))
    (by rw [exec, execGetIntState, runCommand_ok h]; rfl) rfl rfl
    (by simpa [Event.onBus, BusAction.allowed] using mode_of_check h rfl)
    (clean_of_prefixes rfl (by simp [Framing.next])) id (fun _ => rfl)
    (by unfold bitResult; split <;> simp [layout])

theorem checkFrame_onBus (s : State) (a v : Byte) (k : Nat) :
    ∀ e ∈ checkFrame s a v k, e.onBus s.mode s.slave := by
  intro e he
  rcases List.mem_append.mp he with he | he
  · exact writeFrame_onBus _ _ _ _ e he
  · exact readFrame_onBus _ _ _ _ e he

theorem checkFrame_clean (s : State) (a v : Byte) (k : Nat) : Clean (checkFrame s a v k) :=
  (writeFrame_clean _ _ _ _).append (readFrame_clean _ _ _ _)

/-- The statements of DEFAULT_CONFIG before its response (R123). -/
def defaultConfigChecks (s : State) : Flow :=
  runAll [clearFail, writeAndCheck s.cfg.raResConfig 0x78#8,
    writeAndCheck s.cfg.raCtrlReg1 0x74#8, writeAndCheck s.cfg.raCtrlReg1 0xF4#8,
    memRead s.cfg.raDeviceId, expectTmp 0xBB#8] s

/-- DEFAULT_CONFIG (R123). -/
theorem defaultConfig_command {s : State} (h : check .defaultConfig s.mode = none) :
    Command .defaultConfig s s
      (withFail (defaultConfigFail s) (moved s (defaultConfigFrame s) 4 (s.byteAt 3)))
      (defaultConfigChecks s) (defaultConfigFrame s) .bool (boolResult (defaultConfigFail s)) := by
  refine command_of h rfl (defaultConfigChecks_does s (mode_of_check h rfl)) (g := respondNotFail)
    ?_ rfl ?_ ?_ ?_ (moved_cs s (defaultConfigFrame s) 4 (s.byteAt 3) (mode_of_check h rfl)) (fun _ => rfl) ?_
  · rw [exec, execDefaultConfig, runCommand_ok h, defaultConfigChecks, ← runAll_snoc]
    rfl
  · simp [defaultConfigFrame, checkFrame, busActions, registerReads, registerWrites]
    omega
  · intro e he
    simp only [defaultConfigFrame, List.mem_append] at he
    rcases he with he | he | he | he
    · exact checkFrame_onBus _ _ _ _ e he
    · exact checkFrame_onBus _ _ _ _ e he
    · exact checkFrame_onBus _ _ _ _ e he
    · exact readFrame_onBus _ _ _ _ e he
  · exact (checkFrame_clean _ _ _ _).append ((checkFrame_clean _ _ _ _).append
      ((checkFrame_clean _ _ _ _).append (readFrame_clean _ _ _ _)))
  · unfold boolResult
    split <;> simp [layout]

/-- GET_PRESSURE (R143). -/
theorem pressure_command {s : State} (h : check .getPressure s.mode = none) :
    Command .getPressure s s
      (withAcc (assemblePressure (s.byteAt 0) (s.byteAt 1) (s.byteAt 2))
        (moved s (pressureFrame s) 3 (s.byteAt 2)))
      (pressureSample s) (pressureFrame s) .f32
      (bits32 (pressure (assemblePressure (s.byteAt 0) (s.byteAt 1) (s.byteAt 2)).toNat)) := by
  refine command_of h rfl (pressureSample_does s (mode_of_check h rfl)) (g := respondPressure)
    (by rw [exec, execGetPressure, runCommand_ok h, pressureBody_eq]) rfl ?_ ?_ ?_
    (moved_cs s (pressureFrame s) 3 (s.byteAt 2) (mode_of_check h rfl)) (fun _ => rfl) trivial
  · simp [pressureFrame, busActions, registerReads, registerWrites]
    omega
  · intro e he
    simp only [pressureFrame, List.mem_append] at he
    rcases he with he | he | he <;> exact readFrame_onBus _ _ _ _ e he
  · exact (readFrame_clean _ _ _ _).append
      ((readFrame_clean _ _ _ _).append (readFrame_clean _ _ _ _))

/-- GET_TEMPERATURE (R145). -/
theorem temperature_command {s : State} (h : check .getTemperature s.mode = none) :
    Command .getTemperature s s
      (withAcc (assembleTemperature (s.byteAt 0) (s.byteAt 1))
        (moved s (temperatureFrame s) 2 (s.byteAt 1)))
      (temperatureSample s) (temperatureFrame s) .f32
      (bits32 (temp s.cfg.tempEval (s16 (assembleTemperature (s.byteAt 0) (s.byteAt 1))))) := by
  refine command_of h rfl (temperatureSample_does s (mode_of_check h rfl)) (g := respondTemperature)
    (by rw [exec, execGetTemperature, runCommand_ok h, temperatureBody_eq]) rfl ?_ ?_ ?_
    (moved_cs s (temperatureFrame s) 2 (s.byteAt 1) (mode_of_check h rfl)) (fun _ => rfl) trivial
  · simp [temperatureFrame, busActions, registerReads, registerWrites]
    omega
  · intro e he
    simp only [temperatureFrame, List.mem_append] at he
    rcases he with he | he <;> exact readFrame_onBus _ _ _ _ e he
  · exact (readFrame_clean _ _ _ _).append (readFrame_clean _ _ _ _)

/-- INIT_SPI (R96). -/
theorem initSpi_command {s : State} (h : check .initSpi s.mode = none) :
    Command .initSpi s { s with mode := .spi } (complete (.csSet .high) { s with mode := .spi })
      (perform (.csSet .high) { s with mode := .spi }) [.bus (.csSet .high) .done] .none 0#32 where
  start := .inr (.inl ⟨rfl, rfl⟩)
  does := perform_does (.csSet .high) _ fun _ => rfl
  exec_eq := by
    rw [exec, execInitSpi, runCommand_ok h, runAll_cons]
    rw [bindSpi, Flow.running_andThen, runAll_pair]
  count := rfl
  onBus := by simp [Event.onBus, BusAction.allowed]
  clean := clean_of_prefixes rfl (by simp [Framing.next])
  initialised := by simp
  cs := fun _ => rfl
  port := fun _ => rfl
  data_layout := rfl

/-- INIT_I2C (R97). -/
theorem initI2c_command {s : State} {sa : Byte} (h : check (.initI2c sa) s.mode = none) :
    Command (.initI2c sa) s { s with slave := sa, mode := .i2c }
      { s with slave := sa, mode := .i2c } (.running { s with slave := sa, mode := .i2c }) []
      .none 0#32 where
  start := .inr (.inr ⟨sa, rfl, rfl⟩)
  does := .nil _
  exec_eq := by
    rw [exec, execInitI2c, runCommand_ok h, runAll_pair]
    rfl
  count := by simp [busActions, registerReads, registerWrites]
  onBus := by simp
  clean := .nil
  initialised := by simp
  cs := by
    intro hcs
    have hm : s.mode = .uninit := by
      cases hmode : s.mode <;> simp [check, isInit, hmode] at h
      rfl
    rw [hm] at hcs
    exact hcs
  port := id
  data_layout := rfl

/-- Every command takes the fault of its check, or does its bus actions and responds. -/
theorem exec_cases (i : Instr) (s : State) :
    (∃ code, check i s.mode = some code ∧ exec i s = .next (raiseFault code s)) ∨
    (check i s.mode = none ∧
      ∃ s0 t m evs kind data, Command i s s0 t m evs kind data) := by
  cases h : check i s.mode with
  | some code =>
    refine .inl ⟨code, rfl, ?_⟩
    cases i <;> exact runCommand_fault h
  | none =>
    refine .inr ⟨rfl, ?_⟩
    cases i with
    | initSpi => exact ⟨_, _, _, _, _, _, initSpi_command h⟩
    | initI2c sa => exact ⟨_, _, _, _, _, _, initI2c_command h⟩
    | writeReg a v => exact ⟨_, _, _, _, _, _, write_command h⟩
    | getIntState => exact ⟨_, _, _, _, _, _, int_command h⟩
    | defaultConfig => exact ⟨_, _, _, _, _, _, defaultConfig_command h⟩
    | getPressure => exact ⟨_, _, _, _, _, _, pressure_command h⟩
    | getTemperature => exact ⟨_, _, _, _, _, _, temperature_command h⟩
    | readReg a => exact ⟨_, _, _, _, _, _, read_command h rfl rfl (by
        simp [busActions, registerReads, registerWrites])⟩
    | getConfig => exact ⟨_, _, _, _, _, _, read_command h rfl rfl (by
        simp [busActions, registerReads, registerWrites])⟩
    | readId => exact ⟨_, _, _, _, _, _, read_command h rfl rfl (by
        simp [busActions, registerReads, registerWrites])⟩
    | _ => exact ⟨_, _, _, _, _, _, rmw_command h rfl rfl (by
        simp [busActions, registerReads, registerWrites])⟩

end Sys2Proof.Machine
end

