-- ==== Sys2Proof/Laws/Decode.lean ====
section
/-!
SUPPORT. The fields of a command word (R75): a word is made of its fields, and its fields are what it
was made of.
-/

namespace Sys2Proof

theorem cmdWord_bit (a b c : Byte) (i : Nat) :
    (cmdWord a b c).getLsbD i =
      if i < 8 then c.getLsbD i else if i - 8 < 8 then b.getLsbD (i - 8) else a.getLsbD (i - 16) := by
  have h : (cmdWord a b c).getLsbD i = ((a ++ b) ++ c).getLsbD i := rfl
  rw [h, BitVec.getLsbD_append, BitVec.getLsbD_append]
  by_cases h1 : i < 8
  · simp [h1]
  · by_cases h2 : i - 8 < 8
    · simp [h1, h2]
    · simp only [h1, h2, if_false]
      congr 1

theorem opcOf_cmdWord (a b c : Byte) : opcOf (cmdWord a b c) = a := by
  apply BitVec.eq_of_getLsbD_eq
  intro i hi
  have h1 : ¬ 16 + i < 8 := by omega
  have h2 : ¬ 16 + i - 8 < 8 := by omega
  rw [opcOf, BitVec.getLsbD_extractLsb', cmdWord_bit, if_neg h1, if_neg h2]
  simp [hi]

theorem op1Of_cmdWord (a b c : Byte) : op1Of (cmdWord a b c) = b := by
  apply BitVec.eq_of_getLsbD_eq
  intro i hi
  have h1 : ¬ 8 + i < 8 := by omega
  have h2 : 8 + i - 8 < 8 := by omega
  rw [op1Of, BitVec.getLsbD_extractLsb', cmdWord_bit, if_neg h1, if_pos h2]
  simp [hi]

theorem op2Of_cmdWord (a b c : Byte) : op2Of (cmdWord a b c) = c := by
  apply BitVec.eq_of_getLsbD_eq
  intro i hi
  have h1 : 0 + i < 8 := by omega
  rw [op2Of, BitVec.getLsbD_extractLsb', cmdWord_bit, if_pos h1]
  simp [hi]

/-- Every word is made of its fields (R75). -/
theorem cmdWord_fields (w : CmdWord) : cmdWord (opcOf w) (op1Of w) (op2Of w) = w := by
  apply BitVec.eq_of_getLsbD_eq
  intro i hi
  rw [cmdWord_bit, opcOf, op1Of, op2Of, BitVec.getLsbD_extractLsb', BitVec.getLsbD_extractLsb',
    BitVec.getLsbD_extractLsb']
  by_cases h1 : i < 8
  · simp [h1]
  · by_cases h2 : i - 8 < 8
    · simp [h1, h2, show 8 + (i - 8) = i by omega]
    · simp [h1, h2, show 16 + (i - 16) = i by omega, show i - 16 < 8 by omega]

end Sys2Proof
end

