-- ==== Sys2Proof/Laws/Float.lean ====
section
/-!
SUPPORT. One specification lemma per floating-point primitive, over the rationals.
-/

namespace Sys2Proof

/-- A fraction with a nonzero denominator stands for num / den (R17). -/
theorem Frac.add_value {p q : Frac} (hp : p.den ≠ 0) (hq : q.den ≠ 0) :
    ((p.add q).num : ℚ) / (p.add q).den = (p.num : ℚ) / p.den + (q.num : ℚ) / q.den := by
  have h1 : (p.den : ℚ) ≠ 0 := by exact_mod_cast hp
  have h2 : (q.den : ℚ) ≠ 0 := by exact_mod_cast hq
  simp only [Frac.add]
  push_cast
  field_simp

theorem Frac.div_value {p q : Frac} (hp : p.den ≠ 0) (hq : q.den ≠ 0) (hn : q.num ≠ 0) :
    ((p.div q).num : ℚ) / (p.div q).den = ((p.num : ℚ) / p.den) / ((q.num : ℚ) / q.den) := by
  have h1 : (p.den : ℚ) ≠ 0 := by exact_mod_cast hp
  have h2 : (q.den : ℚ) ≠ 0 := by exact_mod_cast hq
  have h3 : (q.num : ℚ) ≠ 0 := by exact_mod_cast hn
  have h4 : (q.num : ℚ) * (q.num.sign : ℚ) = (q.num.natAbs : ℚ) := by
    have h := Int.mul_sign_self q.num
    rw [← Int.cast_mul, h]
    simp
  have h5 : (q.num.natAbs : ℚ) ≠ 0 := by
    have : q.num.natAbs ≠ 0 := by omega
    exact_mod_cast this
  simp only [Frac.div]
  push_cast
  rw [div_div_eq_mul_div, div_eq_div_iff (mul_ne_zero h1 h5) h3, ← h4]
  field_simp

/-- `scaledBy n d k` stands for n / d * 2 ^ k. -/
theorem scaledBy_value (n d : Nat) (k : Int) (hd : d ≠ 0) :
    (scaledBy n d k).2 ≠ 0 ∧
    ((scaledBy n d k).1 : ℚ) / (scaledBy n d k).2 = (n : ℚ) / d * (2 : ℚ) ^ k := by
  unfold scaledBy
  split
  · rename_i h
    obtain ⟨j, rfl⟩ := Int.eq_ofNat_of_zero_le h
    refine ⟨hd, ?_⟩
    simp
    ring
  · rename_i h
    obtain ⟨j, hj⟩ := Int.eq_ofNat_of_zero_le (show 0 ≤ -k by omega)
    have hk : k = -(j : Int) := by omega
    subst hk
    refine ⟨by positivity, ?_⟩
    simp
    field_simp

/-- The value of a binary32 value: mant * 2 ^ exp, negated when neg (R142). -/
theorem B32.value_eq (x : B32) :
    x.value.den ≠ 0 ∧
    (x.value.num : ℚ) / x.value.den =
      (if x.neg then -1 else 1) * (x.mant : ℚ) * (2 : ℚ) ^ x.exp := by
  unfold B32.value
  have hm : (((if x.neg then -(x.mant : Int) else x.mant) : Int) : ℚ)
      = (if x.neg then -1 else 1) * (x.mant : ℚ) := by
    split <;> simp
  by_cases h : 0 ≤ x.exp
  · obtain ⟨j, hj⟩ := Int.eq_ofNat_of_zero_le h
    rw [← hm]
    simp [hj]
  · obtain ⟨j, hj⟩ := Int.eq_ofNat_of_zero_le (show 0 ≤ -x.exp by omega)
    have hk : x.exp = -(j : Int) := by omega
    rw [← hm]
    simp only [if_neg h]
    refine ⟨by positivity, ?_⟩
    rw [hk]
    push_cast
    rw [zpow_neg, zpow_natCast, div_eq_mul_inv]
    simp

/-- `floorLog2` is the exponent of the leading bit. -/
theorem floorLog2_spec (n d : Nat) (hn : n ≠ 0) (hd : d ≠ 0) :
    (2 : ℚ) ^ floorLog2 n d ≤ (n : ℚ) / d ∧ (n : ℚ) / d < (2 : ℚ) ^ (floorLog2 n d + 1) := by
  have hd0 : (0 : ℚ) < d := by exact_mod_cast Nat.pos_of_ne_zero hd
  have h2 : (0 : ℚ) < 2 := by norm_num
  have n1 : (2 : ℚ) ^ (n.log2 : Int) ≤ n := by
    rw [zpow_natCast]; exact_mod_cast Nat.log2_self_le hn
  have n2 : (n : ℚ) < (2 : ℚ) ^ ((n.log2 : Int) + 1) := by
    have := Nat.lt_log2_self (n := n)
    rw [← Nat.cast_succ, zpow_natCast]; exact_mod_cast this
  have d1 : (2 : ℚ) ^ (d.log2 : Int) ≤ d := by
    rw [zpow_natCast]; exact_mod_cast Nat.log2_self_le hd
  have d2 : (d : ℚ) < (2 : ℚ) ^ ((d.log2 : Int) + 1) := by
    have := Nat.lt_log2_self (n := d)
    rw [← Nat.cast_succ, zpow_natCast]; exact_mod_cast this
  have upper : (n : ℚ) / d < (2 : ℚ) ^ ((n.log2 : Int) - d.log2 + 1) := by
    rw [div_lt_iff₀ hd0]
    calc (n : ℚ) < (2 : ℚ) ^ ((n.log2 : Int) + 1) := n2
      _ = (2 : ℚ) ^ ((n.log2 : Int) - d.log2 + 1) * (2 : ℚ) ^ (d.log2 : Int) := by
        rw [← zpow_add₀ h2.ne']; congr 1; ring
      _ ≤ _ := by gcongr
  have lower : (2 : ℚ) ^ ((n.log2 : Int) - d.log2 - 1) ≤ (n : ℚ) / d := by
    rw [le_div_iff₀ hd0]
    calc (2 : ℚ) ^ ((n.log2 : Int) - d.log2 - 1) * d
        ≤ (2 : ℚ) ^ ((n.log2 : Int) - d.log2 - 1) * (2 : ℚ) ^ ((d.log2 : Int) + 1) := by gcongr
      _ = (2 : ℚ) ^ (n.log2 : Int) := by rw [← zpow_add₀ h2.ne']; congr 1; ring
      _ ≤ n := n1
  obtain ⟨s0, s1⟩ := scaledBy_value n d (-((n.log2 : Int) - d.log2)) hd
  have s2 : (0 : ℚ) < (scaledBy n d (-((n.log2 : Int) - d.log2))).2 := by
    exact_mod_cast Nat.pos_of_ne_zero s0
  have key : (scaledBy n d (-((n.log2 : Int) - d.log2))).2 ≤
        (scaledBy n d (-((n.log2 : Int) - d.log2))).1 ↔
      (2 : ℚ) ^ ((n.log2 : Int) - d.log2) ≤ (n : ℚ) / d := by
    rw [← Nat.cast_le (α := ℚ), ← one_le_div s2, s1, zpow_neg, ← div_eq_mul_inv,
      one_le_div (zpow_pos h2 _)]
  unfold floorLog2
  dsimp only
  split
  · rename_i h
    exact ⟨key.mp h, upper⟩
  · rename_i h
    have := not_le.mp (mt key.mpr h)
    exact ⟨lower, by rwa [sub_add_cancel]⟩

/-- `roundTiesEven` is a nearest integer, and the even one of two equally near ones (R142). -/
theorem roundTiesEven_spec (n d : Nat) (hd : d ≠ 0) (k : Int) :
    ((roundTiesEven n d : Int) * d - n).natAbs ≤ (k * d - n).natAbs ∧
    (((roundTiesEven n d : Int) * d - n).natAbs = (k * d - n).natAbs →
      k = roundTiesEven n d ∨ roundTiesEven n d % 2 = 0) := by
  have hq : (n : Int) = (n / d : Nat) * (d : Int) + (n % d : Nat) := by
    have := Nat.div_add_mod n d
    rw [Nat.mul_comm] at this
    exact_mod_cast this.symm
  have hr : n % d < d := Nat.mod_lt n (Nat.pos_of_ne_zero hd)
  unfold roundTiesEven
  dsimp only
  generalize n / d = q at *
  generalize n % d = r at *
  have e : ∀ m : Int, m * d - n = (m - q) * d - r := by intro m; rw [hq]; ring
  simp only [e]
  have low : k - q ≤ -1 → (k - q) * (d : Int) ≤ -d := by intro h; nlinarith
  have high : 2 ≤ k - q → 2 * (d : Int) ≤ (k - q) * d := by intro h; nlinarith
  have cases : k - q ≤ -1 ∨ k - q = 0 ∨ k - q = 1 ∨ 2 ≤ k - q := by omega
  have z : ((q : Int) - q) * (d : Int) = 0 := by ring
  have o : ((q + 1 : Nat) - (q : Int)) * (d : Int) = d := by push_cast; ring
  generalize hx : (k - (q : Int)) * (d : Int) = x at *
  have x0 : k - q = 0 → x = 0 := by intro h; rw [← hx, h]; ring
  have x1 : k - q = 1 → x = d := by intro h; rw [← hx, h]; ring
  split
  · rw [z]
    rcases cases with h | h | h | h
    · have := low h; omega
    · have := x0 h; omega
    · have := x1 h; omega
    · have := high h; omega
  · split
    · rw [o]
      rcases cases with h | h | h | h
      · have := low h; omega
      · have := x0 h; omega
      · have := x1 h; omega
      · have := high h; omega
    · split
      · rw [z]
        rcases cases with h | h | h | h
        · have := low h; omega
        · have := x0 h; omega
        · have := x1 h; omega
        · have := high h; omega
      · rw [o]
        rcases cases with h | h | h | h
        · have := low h; omega
        · have := x0 h; omega
        · have := x1 h; omega
        · have := high h; omega

/-- The integer significand `f32` rounds to: `n / d` in units of its last bit. -/
def significand (n d : Nat) : Nat :=
  roundTiesEven (scaledBy n d (-lastBitExp n d)).1 (scaledBy n d (-lastBitExp n d)).2

/-- `f32` of a number that is not 0, case by case. -/
theorem f32_eq (q : Frac) (hn : q.num ≠ 0) :
    f32 q =
      if significand q.num.natAbs q.den = 2 ^ 24 then
        ⟨decide (q.num < 0), 2 ^ 23, lastBitExp q.num.natAbs q.den + 1⟩
      else if significand q.num.natAbs q.den = 0 then ⟨false, 0, -149⟩
      else ⟨decide (q.num < 0), significand q.num.natAbs q.den, lastBitExp q.num.natAbs q.den⟩ := by
  unfold f32
  exact if_neg (by omega)

/-- The value of `f32(q)`: of the sign of q, the rounded significand in units of the last bit (R17). -/
theorem f32_value (q : Frac) (hn : q.num ≠ 0) :
    ((f32 q).value.num : ℚ) / (f32 q).value.den =
      (if q.num < 0 then -1 else 1) * (significand q.num.natAbs q.den : ℚ) *
        (2 : ℚ) ^ lastBitExp q.num.natAbs q.den := by
  rw [(B32.value_eq _).2, f32_eq q hn]
  split
  · rename_i h
    rw [h, zpow_add_one₀ (by norm_num)]
    by_cases hs : q.num < 0 <;> simp [hs] <;> ring
  · split
    · rename_i h
      simp [h]
    · by_cases hs : q.num < 0 <;> simp [hs]

/-! ## The fields of an encoding (R142) -/

/-- A bit of a word made of sign, exponent and fraction. -/
theorem fields_bit (s : BitVec 1) (e : BitVec 8) (f : BitVec 23) (i : Nat) :
    (s ++ e ++ f : Word32).getLsbD i =
      if i < 23 then f.getLsbD i
      else if i - 23 < 8 then e.getLsbD (i - 23) else s.getLsbD (i - 31) := by
  have h : (s ++ e ++ f : Word32).getLsbD i = ((s ++ e) ++ f).getLsbD i := rfl
  rw [h, BitVec.getLsbD_append, BitVec.getLsbD_append]
  by_cases h1 : i < 23
  · simp [h1]
  · by_cases h2 : i - 23 < 8
    · simp [h1, h2]
    · simp only [h1, h2, if_false]
      congr 1

theorem bits32_fields (x : B32) :
    (bits32 x).getLsbD 31 = x.neg ∧
    (bits32 x).extractLsb' 23 8 =
      (if x.mant < 2 ^ 23 then 0#8 else BitVec.ofInt 8 (x.exp + 150)) ∧
    (bits32 x).extractLsb' 0 23 = BitVec.ofNat 23 x.mant := by
  unfold bits32
  generalize (if x.mant < 2 ^ 23 then 0#8 else BitVec.ofInt 8 (x.exp + 150)) = e
  generalize BitVec.ofNat 23 x.mant = f
  refine ⟨?_, ?_, ?_⟩
  · rw [fields_bit, if_neg (by omega), if_neg (by omega)]
    simp
  · apply BitVec.eq_of_getLsbD_eq
    intro i hi
    rw [BitVec.getLsbD_extractLsb', fields_bit, if_neg (by omega), if_pos (by omega)]
    simp [hi]
  · apply BitVec.eq_of_getLsbD_eq
    intro i hi
    rw [BitVec.getLsbD_extractLsb', fields_bit, if_pos (by omega)]
    simp [hi]

/-- The encoding of a normal number stands for that number. -/
theorem valueOf32_bits32 (x : B32) (h1 : 2 ^ 23 ≤ x.mant) (h2 : x.mant < 2 ^ 24)
    (h3 : -149 ≤ x.exp) (h4 : x.exp ≤ 104) : valueOf32 (bits32 x) = x.value := by
  obtain ⟨f1, f2, f3⟩ := bits32_fields x
  have he : (BitVec.ofInt 8 (x.exp + 150)).toNat = (x.exp + 150).toNat := by
    rw [BitVec.toNat_ofInt]
    congr 1
    exact Int.emod_eq_of_lt (by omega) (by norm_num; omega)
  have hf : (BitVec.ofNat 23 x.mant).toNat = x.mant - 2 ^ 23 := by
    rw [BitVec.toNat_ofNat]
    omega
  rw [if_neg (by omega)] at f2
  unfold valueOf32
  rw [f1, f2, f3, he, hf]
  dsimp only
  rw [if_neg (by omega)]
  have hm : 2 ^ 23 + (x.mant - 2 ^ 23) = x.mant := by omega
  have hx : (((x.exp + 150).toNat : Nat) : Int) - 150 = x.exp := by omega
  rw [hm, hx]

end Sys2Proof
end

