-- ==== Sys2Proof/Laws/Frames.lean ====
section
/-!
SUPPORT. Frames: `exec_keeps` says once what a part p of the state must satisfy so that a command
leaves it alone, however the command ends.
-/

namespace Sys2Proof.Machine

/-! ## Statements that leave a part of the state alone -/

/-- A part of the state that no statement of a body changes, the body does not change. -/
theorem Flow.andThen_keeps {α : Type} (p : State → α) {m : Flow} {g : State → Flow} {b : α}
    (hm : p m.state = b) (hg : ∀ t, p t = b → p (g t).state = b) : p (m.andThen g).state = b := by
  cases m with
  | running t => exact hg t hm
  | waiting t => exact hm

theorem runAll_keeps {α : Type} (p : State → α) {fs : List (State → Flow)} {b : α}
    (hf : ∀ f ∈ fs, ∀ t, p t = b → p (f t).state = b) (s : State) (hs : p s = b) :
    p (runAll fs s).state = b := by
  induction fs generalizing s with
  | nil => exact hs
  | cons f fs ih =>
    exact Flow.andThen_keeps p (hf f (by simp) s hs) fun t ht =>
      ih (fun g hg => hf g (by simp [hg])) t ht

theorem perform_keeps {α : Type} (p : State → α) (a : BusAction) (s : State)
    (hc : p (complete a s) = p s) (hw : p { s with port := some a } = p s) :
    p (perform a s).state = p s := by
  unfold perform
  split
  · exact hc
  · exact hw

theorem readByte_keeps {α : Type} (p : State → α) (a : BusAction) (s : State)
    (hc : p { complete a s with tmp := s.byteAt 0 } = p s)
    (hw : p { s with port := some a } = p s) : p (readByte a s).state = p s := by
  unfold readByte perform
  split
  · exact hc
  · exact hw

/-- No bus action but `IntRead` changes the part p of the state. -/
structure OffBus {α : Type} (p : State → α) : Prop where
  completes : ∀ a s, a ≠ .intRead → p (complete a s) = p s
  waits : ∀ a (s : State), p { s with port := some a } = p s

/-- Nor does a byte read into TMP. -/
structure OffRead {α : Type} (p : State → α) : Prop extends OffBus p where
  reads : ∀ a s b, a ≠ .intRead → p { complete a s with tmp := b } = p s

theorem OffBus.perform {α : Type} {p : State → α} (h : OffBus p) (a : BusAction) (s : State)
    (hi : a ≠ .intRead) : p (Machine.perform a s).state = p s :=
  perform_keeps p a s (h.completes a s hi) (h.waits a s)

theorem OffRead.readByte {α : Type} {p : State → α} (h : OffRead p) (a : BusAction) (s : State)
    (hi : a ≠ .intRead) : p (Machine.readByte a s).state = p s :=
  readByte_keeps p a s (h.reads a s _ hi) (h.waits a s)

theorem OffBus.memWrite {α : Type} {p : State → α} (h : OffBus p) (a v : Byte) (s : State) :
    p (Machine.memWrite a v s).state = p s := by
  unfold Machine.memWrite
  split
  · refine runAll_keeps p ?_ s rfl
    intro f hf t ht
    simp only [List.mem_cons, List.not_mem_nil, or_false] at hf
    rcases hf with rfl | rfl | rfl <;> exact (h.perform _ _ (by simp)).trans ht
  · exact h.perform _ _ (by simp)
  · rfl

theorem OffRead.memRead {α : Type} {p : State → α} (h : OffRead p) (a : Byte) (s : State) :
    p (Machine.memRead a s).state = p s := by
  unfold Machine.memRead
  split
  · refine runAll_keeps p ?_ s rfl
    intro f hf t ht
    simp only [List.mem_cons, List.not_mem_nil, or_false] at hf
    rcases hf with rfl | rfl | rfl | rfl
    · exact (h.perform _ _ (by simp)).trans ht
    · exact (h.perform _ _ (by simp)).trans ht
    · exact (h.readByte _ _ (by simp)).trans ht
    · exact (h.perform _ _ (by simp)).trans ht
  · refine runAll_keeps p ?_ s rfl
    intro f hf t ht
    simp only [List.mem_cons, List.not_mem_nil, or_false] at hf
    rcases hf with rfl | rfl
    · exact (h.perform _ _ (by simp)).trans ht
    · exact (h.readByte _ _ (by simp)).trans ht
  · rfl

theorem OffRead.rmw {α : Type} {p : State → α} (h : OffRead p) (ar aw : Byte) (f : Byte → Byte)
    (s : State) : p (Machine.rmw ar aw f s).state = p s :=
  Flow.andThen_keeps p (h.memRead _ _) fun _ ht => (h.memWrite _ _ _).trans ht

/-- The parts of the state that only single commands, or none, write. -/
theorem offRead_acc : OffRead State.acc where
  completes := fun a _ _ => by cases a <;> rfl
  waits := fun _ _ => rfl
  reads := fun a _ _ _ => by cases a <;> rfl

theorem offRead_fail : OffRead State.fail where
  completes := fun a _ _ => by cases a <;> rfl
  waits := fun _ _ => rfl
  reads := fun a _ _ _ => by cases a <;> rfl

theorem offRead_levels : OffRead State.levels where
  completes := fun a _ h => by cases a <;> first | rfl | exact absurd rfl h
  waits := fun _ _ => rfl
  reads := fun a _ _ h => by cases a <;> first | rfl | exact absurd rfl h

theorem offBus_tmp : OffBus State.tmp where
  completes := fun a _ _ => by cases a <;> rfl
  waits := fun _ _ => rfl

/-- A part p of the state that is off the bus, and that neither the envelope nor the statements
peculiar to the command i write, is as it was after i. -/
theorem exec_keeps {α : Type} {p : State → α} (off : OffRead p)
    (hr : ∀ k d s, p (responded k d s) = p s) (hf : ∀ c s, p (raiseFault c s) = p s)
    (hm : ∀ (s : State) m, p { s with mode := m } = p s)
    (hs : ∀ (s : State) m, p { s with slave := m } = p s) (i : Instr)
    (hfail : i = .defaultConfig → ∀ (s : State) b, p { s with fail := b } = p s)
    (hacc : i = .getPressure ∨ i = .getTemperature →
      ∀ (s : State) b, p { s with acc := b } = p s)
    (hint : i = .getIntState → ∀ s, p (complete .intRead s) = p s)
    (s t : State) (h : exec i s = .next t) : p t = p s := by
  have run : ∀ body : State → Flow, exec i s = runCommand i body s →
      p (body s).state = p s → p t = p s := by
    intro body he hb
    cases hc : check i s.mode with
    | some c => rw [he, runCommand_fault hc] at h; cases h; exact hf _ _
    | none => rw [he, runCommand_ok hc] at h; cases h; exact hb
  have pair : ∀ (f g : State → Flow), p (f s).state = p s → (∀ t, p (g t).state = p t) →
      p (runAll [f, g] s).state = p s := by
    intro f g h1 h2
    rw [runAll_pair]
    exact Flow.andThen_keeps p h1 (fun t ht => (h2 t).trans ht)
  cases i with
  | initSpi =>
    refine run _ rfl ?_
    refine runAll_keeps p ?_ s rfl
    intro f hf t ht
    simp only [List.mem_cons, List.not_mem_nil, or_false] at hf
    rcases hf with rfl | rfl | rfl
    · exact (hm t _).trans ht
    · exact (off.perform _ _ (by simp)).trans ht
    · exact (hr _ _ _).trans ht
  | initI2c sa =>
    refine run _ rfl ?_
    refine runAll_keeps p ?_ s rfl
    intro f hf t ht
    simp only [List.mem_cons, List.not_mem_nil, or_false] at hf
    rcases hf with rfl | rfl
    · exact ((hm { t with slave := sa } .i2c).trans (hs t sa)).trans ht
    · exact (hr _ _ _).trans ht
  | readReg => exact run _ rfl (pair _ _ (off.memRead _ _) (fun t => hr _ _ _))
  | getConfig => exact run _ rfl (pair _ _ (off.memRead _ _) (fun t => hr _ _ _))
  | readId => exact run _ rfl (pair _ _ (off.memRead _ _) (fun t => hr _ _ _))
  | writeReg => exact run _ rfl (pair _ _ (off.memWrite _ _ _) (fun t => hr _ _ _))
  | getIntState =>
    exact run _ rfl (Flow.andThen_keeps p (perform_keeps p _ _ (hint rfl s) (off.waits _ _))
      (fun t ht => (hr _ _ _).trans ht))
  | defaultConfig =>
    refine run _ rfl ?_
    refine runAll_keeps p ?_ s rfl
    have hwc : ∀ a v t, p (writeAndCheck a v t).state = p t := by
      intro a v t
      refine runAll_keeps p ?_ t rfl
      intro f hf t ht
      simp only [List.mem_cons, List.not_mem_nil, or_false] at hf
      rcases hf with rfl | rfl | rfl
      · exact (off.memWrite _ _ _).trans ht
      · exact (off.memRead _ _).trans ht
      · exact (hfail rfl t _).trans ht
    intro f hf t ht
    simp only [List.mem_cons, List.not_mem_nil, or_false] at hf
    rcases hf with rfl | rfl | rfl | rfl | rfl | rfl | rfl
    · exact (hfail rfl t _).trans ht
    · exact (hwc _ _ _).trans ht
    · exact (hwc _ _ _).trans ht
    · exact (hwc _ _ _).trans ht
    · exact (off.memRead _ _).trans ht
    · exact (hfail rfl t _).trans ht
    · exact (hr _ _ _).trans ht
  | getPressure =>
    refine run _ rfl ?_
    rw [pressureBody_eq]
    refine Flow.andThen_keeps p ?_ (fun t ht => (hr _ _ _).trans ht)
    exact Flow.andThen_keeps p (off.memRead _ _) fun t ht =>
      Flow.andThen_keeps p ((off.memRead _ _).trans ht) fun t ht =>
      Flow.andThen_keeps p ((off.memRead _ _).trans ht) fun t ht =>
      (hacc (.inl rfl) _ _).trans ht
  | getTemperature =>
    refine run _ rfl ?_
    rw [temperatureBody_eq]
    refine Flow.andThen_keeps p ?_ (fun t ht => (hr _ _ _).trans ht)
    exact Flow.andThen_keeps p (off.memRead _ _) fun t ht =>
      Flow.andThen_keeps p ((off.memRead _ _).trans ht) fun t ht =>
      (hacc (.inr rfl) _ _).trans ht
  | _ => exact run _ rfl (pair _ _ (off.rmw _ _ _ _) (fun t => hr _ _ _))

end Sys2Proof.Machine
end

