-- ==== Sys2Proof/Laws/PerInstr.lean ====
section
/-!
SUPPORT. The statement made of every command, one lemma each: the opcode byte of the word it encodes
to is the one R78 lists, and that byte alone makes the word legal.
-/

namespace Sys2Proof.Laws.EncodedOpcode

/-- R75, R78: the command's word carries its opcode in bits 23:16. -/
def Statement (i : Instr) : Prop := opcOf (encode i) = i.opcode

theorem of_encode (i : Instr) : Statement i := opcOf_cmdWord _ _ _

theorem initSpi : Statement .initSpi := of_encode _
theorem initI2c (slave : Byte) : Statement (.initI2c slave) := of_encode _
theorem readReg (addr : Byte) : Statement (.readReg addr) := of_encode _
theorem writeReg (addr value : Byte) : Statement (.writeReg addr value) := of_encode _
theorem enable : Statement .enable := of_encode _
theorem powerDown : Statement .powerDown := of_encode _
theorem setOdr (rate : Byte) : Statement (.setOdr rate) := of_encode _
theorem intCircuitOn : Statement .intCircuitOn := of_encode _
theorem intCircuitOff : Statement .intCircuitOff := of_encode _
theorem bduOn : Statement .bduOn := of_encode _
theorem bduOff : Statement .bduOff := of_encode _
theorem deltaOn : Statement .deltaOn := of_encode _
theorem deltaOff : Statement .deltaOff := of_encode _
theorem spiIfMode (mode : Byte) : Statement (.spiIfMode mode) := of_encode _
theorem rebootMode (mode : Byte) : Statement (.rebootMode mode) := of_encode _
theorem softReset : Statement .softReset := of_encode _
theorem setIntCfg (value : Byte) : Statement (.setIntCfg value) := of_encode _
theorem setConfig (value : Byte) : Statement (.setConfig value) := of_encode _
theorem getConfig : Statement .getConfig := of_encode _
theorem readId : Statement .readId := of_encode _
theorem getIntState : Statement .getIntState := of_encode _
theorem defaultConfig : Statement .defaultConfig := of_encode _
theorem getPressure : Statement .getPressure := of_encode _
theorem getTemperature : Statement .getTemperature := of_encode _

end Sys2Proof.Laws.EncodedOpcode
end

