-- ==== Sys2Proof/Tests/Slice0.lean ====
section
/-!
SUPPORT. Tests and witnesses.

Expected values come from spec/: the encodings of spec/30_encoding.md, the vectors of
spec/95_test_vectors.md, whose bytes drawn are scripted in `bytes`.  A witness shows that the
hypotheses of a statement can all hold.
-/

open Sys2Proof Sys2Proof.Machine Sys2Proof.Spec

namespace Sys2Proof.Tests

/-! ## Benches -/

/-- An idle PCBS in a mode, with scripted draws and one command offered. -/
def bench (mode : Mode) (bytes : List Byte) (w : CmdWord) : State :=
  { State.reset with
    mode := mode, slave := 0x5D#8, csLvl := restingCs mode
    inputs := [.command w], bytes := bytes, levels := [true] }

/-- The same PCBS after it accepted the command: where exec runs. -/
def accepted (mode : Mode) (bytes : List Byte) (w : CmdWord) : State :=
  accept w (bench mode bytes w)

/-- The state a step leaves. -/
def after (o : Host.Outcome State Fault Refusal) : State :=
  match o with
  | .next t => t
  | .fault _ => State.reset
  | .refused _ => State.reset

/-- The trace of one command, after its `Accept`. -/
def traceOf (mode : Mode) (bytes : List Byte) (w : CmdWord) : List Event :=
  (after (step (bench mode bytes w))).trace.tail

/-- The byte an RMW command writes, given the byte t read (over I2C: the third bus action). -/
def writtenBy (w : CmdWord) (t : Byte) : Option (Byte × Byte) :=
  match (traceOf .i2c [t] w).drop 2 with
  | .bus (.i2cWrite _ [a, v] .stop) _ :: _ => some (a, v)
  | _ => none

/-- The response of a command over SPI. -/
def answer (bytes : List Byte) (w : CmdWord) : RspKind × Word32 :=
  let t := after (step (bench .spi bytes w))
  (t.rspKind, t.rspData)

/-! ## Well-formedness and decoding (spec/30_encoding.md) -/

/-- R80, R165: SPI_IF_MODE takes 3 and 4 only; no other operand has a check. -/
theorem test_wellFormed_refuses :
    (Instr.spiIfMode 5#8).wellFormed = false ∧ (Instr.spiIfMode 0x13#8).wellFormed = false ∧
    (Instr.spiIfMode 3#8).wellFormed = true ∧ (Instr.spiIfMode 4#8).wellFormed = true ∧
    (Instr.readReg 0xFF#8).wellFormed = true := by decide

/-- R75, R78: opcodes 0x01, 0x02, 0x10, 0x11, bit by bit. -/
theorem test_decode_bus :
    decode 0b00000001_00000000_00000000#24 = .ok .initSpi ∧
    decode 0b00000010_01011101_00000000#24 = .ok (.initI2c 0x5D#8) ∧
    decode 0b00010000_00001111_00000000#24 = .ok (.readReg 0x0F#8) ∧
    decode 0b00010001_00100000_01110100#24 = .ok (.writeReg 0x20#8 0x74#8) := by
  refine ⟨?_, ?_, ?_, ?_⟩ <;> rfl

/-- R75, R78: opcodes 0x20 to 0x29, bit by bit. -/
theorem test_decode_ctrl1 :
    decode 0b00100000_00000000_00000000#24 = .ok .enable ∧
    decode 0b00100001_00000000_00000000#24 = .ok .powerDown ∧
    decode 0b00100010_00001001_00000000#24 = .ok (.setOdr 9#8) ∧
    decode 0b00100011_00000000_00000000#24 = .ok .intCircuitOn ∧
    decode 0b00100100_00000000_00000000#24 = .ok .intCircuitOff ∧
    decode 0b00100101_00000000_00000000#24 = .ok .bduOn ∧
    decode 0b00100110_00000000_00000000#24 = .ok .bduOff ∧
    decode 0b00100111_00000000_00000000#24 = .ok .deltaOn ∧
    decode 0b00101000_00000000_00000000#24 = .ok .deltaOff ∧
    decode 0b00101001_00000100_00000000#24 = .ok (.spiIfMode 4#8) := by
  refine ⟨?_, ?_, ?_, ?_, ?_, ?_, ?_, ?_, ?_, ?_⟩ <;> rfl

/-- R75, R78: opcodes 0x30 to 0x32 and 0x40 to 0x43, bit by bit. -/
theorem test_decode_ctrl2_config :
    decode 0b00110000_00000001_00000000#24 = .ok (.rebootMode 1#8) ∧
    decode 0b00110001_00000000_00000000#24 = .ok .softReset ∧
    decode 0b00110010_00000101_00000000#24 = .ok (.setIntCfg 5#8) ∧
    decode 0b01000000_10000001_00000000#24 = .ok (.setConfig 0x81#8) ∧
    decode 0b01000001_00000000_00000000#24 = .ok .getConfig ∧
    decode 0b01000010_00000000_00000000#24 = .ok .readId ∧
    decode 0b01000011_00000000_00000000#24 = .ok .getIntState := by
  refine ⟨?_, ?_, ?_, ?_, ?_, ?_, ?_⟩ <;> rfl

/-- R75, R78: opcodes 0x50, 0x60, 0x61, bit by bit. -/
theorem test_decode_sequences :
    decode 0b01010000_00000000_00000000#24 = .ok .defaultConfig ∧
    decode 0b01100000_00000000_00000000#24 = .ok .getPressure ∧
    decode 0b01100001_00000000_00000000#24 = .ok .getTemperature := by
  refine ⟨?_, ?_, ?_⟩ <;> rfl

/-- R79: ignored operand bytes (spec/95, 2.1). -/
theorem test_decode_ignored :
    decode 0x20FFFF#24 = .ok .enable ∧ decode 0x41ABCD#24 = .ok .getConfig ∧
    decode 0x310102#24 = .ok .softReset := by
  refine ⟨?_, ?_, ?_⟩ <;> rfl

/-- R80: illegal words (spec/95, 2.1). -/
theorem test_decode_illegal :
    decode 0x000000#24 = .error (.illegalOpcode 0x00#8) ∧
    decode 0xFF0000#24 = .error (.illegalOpcode 0xFF#8) ∧
    decode 0x33FFFF#24 = .error (.illegalOpcode 0x33#8) ∧
    decode 0x620000#24 = .error (.illegalOpcode 0x62#8) := by
  refine ⟨?_, ?_, ?_, ?_⟩ <;> rfl

/-- R85, R86: the textual form. -/
theorem test_text :
    Instr.text .initSpi = "INIT_SPI" ∧ Instr.text (.initI2c 0x5D#8) = "INIT_I2C 0x5D" ∧
    Instr.text (.writeReg 0x20#8 0x74#8) = "WRITE_REG 0x20, 0x74" := by
  refine ⟨?_, ?_, ?_⟩ <;> rfl

/-- The host's two ways in: a table word decodes, and runs as the first command after reset. -/
theorem test_fetch :
    decodeTableWord 24 0x025D00 = some (.initI2c 0x5D#8) ∧
    decodeTableWord 24 0x330000 = none ∧
    (after (step (State.reset.withFetchWord 24 0x025D00))).slave = 0x5D#8 ∧
    (after (step (State.reset.withFetchWord 24 0x025D00))).mode = .i2c := by
  refine ⟨?_, ?_, ?_, ?_⟩ <;> rfl

/-! ## Bus initialisation and register primitives (spec/95, 2.3) -/

theorem test_initSpi :
    traceOf .uninit [] 0x010000#24 = [.bus (.csSet .high) .done, .respond .none 0#32] ∧
    (after (step (bench .uninit [] 0x010000#24))).csLvl = .high := by decide

theorem test_initI2c :
    traceOf .uninit [] 0x020000#24 = [.respond .none 0#32] ∧
    (after (step (bench .uninit [] 0x020000#24))).slave = 0x00#8 ∧
    (after (step (bench .uninit [] 0x020000#24))).csLvl = .undriven := by decide

/-- An SPI read clears bit 6 and keeps bit 7. -/
theorem test_readReg_spi :
    traceOf .spi [0x33#8] 0x10FF00#24 =
      [.bus (.csSet .low) .done, .bus (.spiWrite [0xBF#8]) .done, .bus .spiRead (.byte 0x33#8),
       .bus (.csSet .high) .done, .respond .byte 0x33#32] := by decide

/-- An I2C read masks nothing. -/
theorem test_readReg_i2c :
    traceOf .i2c [0x44#8] 0x104000#24 =
      [.bus (.i2cWrite 0x5D#8 [0x40#8] .restart) .done,
       .bus (.i2cRead 0x5D#8 .stop) (.byte 0x44#8), .respond .byte 0x44#32] := by decide

/-- An SPI write clears bit 7, keeps bit 6, and never masks the data byte. -/
theorem test_writeReg_spi :
    traceOf .spi [] 0x11FFF4#24 =
      [.bus (.csSet .low) .done, .bus (.spiWrite [0x7F#8, 0xF4#8]) .done,
       .bus (.csSet .high) .done, .respond .none 0#32] := by decide

theorem test_writeReg_i2c :
    traceOf .i2c [] 0x11A055#24 =
      [.bus (.i2cWrite 0x5D#8 [0xA0#8, 0x55#8] .stop) .done, .respond .none 0#32] := by decide

/-! ## Control operations (spec/95, 2.4 and 2.5) -/

/-- All of an SPI read-modify-write: two chip-select windows, 7 actions. -/
theorem test_enable_spi :
    traceOf .spi [0x5A#8] 0x200000#24 =
      [.bus (.csSet .low) .done, .bus (.spiWrite [0x20#8]) .done, .bus .spiRead (.byte 0x5A#8),
       .bus (.csSet .high) .done, .bus (.csSet .low) .done,
       .bus (.spiWrite [0x20#8, 0xDA#8]) .done, .bus (.csSet .high) .done,
       .respond .none 0#32] := by decide

theorem test_enable_powerDown :
    writtenBy 0x200000#24 0x5A#8 = some (0x20#8, 0xDA#8) ∧
    writtenBy 0x210000#24 0xFF#8 = some (0x20#8, 0x7F#8) := by decide

theorem test_setOdr :
    writtenBy 0x220900#24 0x5A#8 = some (0x20#8, 0x1A#8) ∧
    writtenBy 0x22FF00#24 0x5A#8 = some (0x20#8, 0x7A#8) ∧
    writtenBy 0x220000#24 0xFF#8 = some (0x20#8, 0x8F#8) := by decide

theorem test_intCircuit :
    writtenBy 0x230000#24 0x00#8 = some (0x20#8, 0x08#8) ∧
    writtenBy 0x240000#24 0x5A#8 = some (0x20#8, 0x52#8) := by decide

theorem test_bdu :
    writtenBy 0x250000#24 0x5A#8 = some (0x20#8, 0x5E#8) ∧
    writtenBy 0x260000#24 0xFF#8 = some (0x20#8, 0xFB#8) := by decide

theorem test_delta :
    writtenBy 0x270000#24 0x00#8 = some (0x20#8, 0x02#8) ∧
    writtenBy 0x280000#24 0x5A#8 = some (0x20#8, 0x58#8) := by decide

theorem test_spiIfMode :
    writtenBy 0x290300#24 0x5A#8 = some (0x20#8, 0x5B#8) ∧
    writtenBy 0x290400#24 0x5A#8 = some (0x20#8, 0x4A#8) := by decide

theorem test_reboot_softReset :
    writtenBy 0x300300#24 0x5A#8 = some (0x21#8, 0xDA#8) ∧
    writtenBy 0x300200#24 0x5A#8 = some (0x21#8, 0x5A#8) ∧
    writtenBy 0x310000#24 0x5A#8 = some (0x21#8, 0x5E#8) := by decide

/-- SET_INT_CFG reads INT_CFG_REG and writes CTRL_REG2, or INT_CFG_REG when corrected (P2, P2c). -/
theorem test_setIntCfg :
    traceOf .i2c [0x01#8] 0x320400#24 =
      [.bus (.i2cWrite 0x5D#8 [0x23#8] .restart) .done,
       .bus (.i2cRead 0x5D#8 .stop) (.byte 0x01#8),
       .bus (.i2cWrite 0x5D#8 [0x21#8, 0x05#8] .stop) .done, .respond .none 0#32] ∧
    intCfgTarget { Config.default with correctedIntCfg := true } = 0x23#8 := by decide

theorem test_setConfig : writtenBy 0x408100#24 0x5A#8 = some (0x10#8, 0xDB#8) := by decide

theorem test_getConfig_readId :
    answer [0x78#8] 0x410000#24 = (.byte, 0x78#32) ∧
    answer [0xBC#8] 0x420000#24 = (.byte, 0xBC#32) := by decide

theorem test_getIntState :
    traceOf .i2c [] 0x430000#24 = [.bus .intRead (.level true), .respond .bit 1#32] := by decide

/-- DEFAULT_CONFIG over I2C: 11 actions in order (S9). -/
theorem test_defaultConfig_i2c :
    traceOf .i2c [0x78#8, 0x74#8, 0xF4#8, 0xBB#8] 0x500000#24 =
      [.bus (.i2cWrite 0x5D#8 [0x10#8, 0x78#8] .stop) .done,
       .bus (.i2cWrite 0x5D#8 [0x10#8] .restart) .done,
       .bus (.i2cRead 0x5D#8 .stop) (.byte 0x78#8),
       .bus (.i2cWrite 0x5D#8 [0x20#8, 0x74#8] .stop) .done,
       .bus (.i2cWrite 0x5D#8 [0x20#8] .restart) .done,
       .bus (.i2cRead 0x5D#8 .stop) (.byte 0x74#8),
       .bus (.i2cWrite 0x5D#8 [0x20#8, 0xF4#8] .stop) .done,
       .bus (.i2cWrite 0x5D#8 [0x20#8] .restart) .done,
       .bus (.i2cRead 0x5D#8 .stop) (.byte 0xF4#8),
       .bus (.i2cWrite 0x5D#8 [0x0F#8] .restart) .done,
       .bus (.i2cRead 0x5D#8 .stop) (.byte 0xBB#8), .respond .bool 1#32] := by decide

/-- Any single mismatch makes the result false (S5). -/
theorem test_defaultConfig_mismatch :
    answer [0x79#8, 0x74#8, 0xF4#8, 0xBB#8] 0x500000#24 = (.bool, 0#32) ∧
    answer [0x78#8, 0x75#8, 0xF4#8, 0xBB#8] 0x500000#24 = (.bool, 0#32) ∧
    answer [0x78#8, 0x74#8, 0x74#8, 0xBB#8] 0x500000#24 = (.bool, 0#32) ∧
    answer [0x78#8, 0x74#8, 0xF4#8, 0xBC#8] 0x500000#24 = (.bool, 0#32) := by
  refine ⟨?_, ?_, ?_, ?_⟩ <;> decide

/-! ## Conversion (spec/95, 2.7 and 2.8) -/

theorem test_getPressure :
    answer [0x00#8, 0x27#8, 0x10#8] 0x600000#24 = (.f32, 0x401C4000#32) ∧
    answer [0x12#8, 0x34#8, 0x56#8] 0x600000#24 = (.f32, 0x4391A2B0#32) ∧
    answer [0x80#8, 0x00#8, 0x00#8] 0x600000#24 = (.f32, 0x45000000#32) ∧
    answer [0xFF#8, 0xFF#8, 0xFF#8] 0x600000#24 = (.f32, 0x457FFFFF#32) := by
  refine ⟨?_, ?_, ?_, ?_⟩ <;> decide

theorem test_pressure_reads_msb_first :
    traceOf .i2c [0x3F#8, 0x5C#8, 0x29#8] 0x600000#24 =
      [.bus (.i2cWrite 0x5D#8 [0x2A#8] .restart) .done,
       .bus (.i2cRead 0x5D#8 .stop) (.byte 0x3F#8),
       .bus (.i2cWrite 0x5D#8 [0x29#8] .restart) .done,
       .bus (.i2cRead 0x5D#8 .stop) (.byte 0x5C#8),
       .bus (.i2cWrite 0x5D#8 [0x28#8] .restart) .done,
       .bus (.i2cRead 0x5D#8 .stop) (.byte 0x29#8), .respond .f32 0x447D70A4#32] := by decide

theorem test_getTemperature :
    answer [0x01#8, 0x2C#8] 0x610000#24 = (.f32, 0x422C8000#32) ∧
    answer [0xFF#8, 0xF0#8] 0x610000#24 = (.f32, 0x4229DDDE#32) ∧
    answer [0xB0#8, 0x50#8] 0x610000#24 = (.f32, 0x00000000#32) ∧
    answer [0x80#8, 0x00#8] 0x610000#24 = (.f32, 0xC1CE2224#32) := by
  refine ⟨?_, ?_, ?_, ?_⟩ <;> decide

/-- The two evaluations of R146. -/
theorem test_temperature_modes :
    bits32 (temp .stepwiseB32 (-1924)) = 0x4219F778#32 ∧
    bits32 (temp .correctlyRounded (-1924)) = 0x4219F777#32 ∧
    bits32 (temp .correctlyRounded (-32768)) = 0xC1CE2222#32 ∧
    bits32 (temp .correctlyRounded 32767) = 0x42DD8777#32 := by
  refine ⟨?_, ?_, ?_, ?_⟩ <;> decide

/-! ## Faults, reset, waiting (spec/95, 2.2) -/

/-- The order of the checks (R166). -/
theorem test_fault_priority :
    traceOf .uninit [] 0x33FFFF#24 = [.fault .illegalOpcode 0x33FFFF#24] ∧
    traceOf .uninit [] 0x290500#24 = [.fault .notInitialised 0x290500#24] ∧
    traceOf .spi [] 0x291300#24 = [.fault .badArgument 0x291300#24] ∧
    traceOf .i2c [] 0x010000#24 = [.fault .alreadyInitialised 0x010000#24] := by
  refine ⟨?_, ?_, ?_, ?_⟩ <;> decide

/-- The fault record (R167), and no acceptance after it (R168). -/
theorem test_fault_record :
    (after (step (bench .spi [] 0xFF1234#24))).faultCode.code = 1#3 ∧
    (after (step (bench .spi [] 0xFF1234#24))).faultCmd = 0xFF1234#24 ∧
    (after (step (bench .spi [] 0xFF1234#24))).csLvl = .high ∧
    (after (step { after (step (bench .spi [] 0xFF1234#24)) with
      inputs := [.command 0x100F00#24] })).trace.length = 2 := by
  refine ⟨?_, ?_, ?_, ?_⟩ <;> decide

/-- A collaborator that completes two actions of a read and never the third (R49): chip-select is
low, two actions are done, the read is on the port. -/
theorem test_hang :
    let t := after (step { bench .spi [] 0x100F00#24 with stall := some 2 })
    t.busy = true ∧ t.stepIdx = 2#5 ∧ t.csLvl = .low ∧ t.port = some .spiRead ∧
    t.rspValid = false := by decide

/-- Power-on reset ends the wait (R185) and the next command is accepted. -/
theorem test_powerOn :
    let h := after (step { bench .spi [] 0x100F00#24 with stall := some 2 })
    let t := after (step { h with inputs := [.powerOn] })
    t.busy = false ∧ t.mode = .uninit ∧ t.csLvl = .undriven ∧ t.trace = [] := by decide

/-! ## Witnesses: the hypotheses of the statements can hold -/

theorem witness_LegalWords : 0x61#8 ∈ opcodes ∧ 0x33#8 ∉ opcodes := by decide

theorem witness_EncodeOfDecode : decode 0x20FFFF#24 = .ok .enable := by rfl

theorem witness_IgnoredOperandBits :
    decode 0x2209FF#24 = .ok (.setOdr 9#8) ∧
    0x2209FF#24 &&& readBits (.setOdr 9#8) = 0x220900#24 &&& readBits (.setOdr 9#8) :=
  ⟨rfl, by decide⟩

theorem witness_StepAccepts :
    (bench .spi [] 0x200000#24).busy = false ∧ (bench .spi [] 0x200000#24).fault = false ∧
    (bench .spi [] 0x200000#24).inputs = .command 0x200000#24 :: [] ∧
    decode 0x200000#24 = .ok .enable := by
  refine ⟨?_, ?_, ?_, ?_⟩ <;> rfl

theorem witness_IllegalOpcode :
    (bench .uninit [] 0xFF0000#24).busy = false ∧ (bench .uninit [] 0xFF0000#24).fault = false ∧
    (bench .uninit [] 0xFF0000#24).inputs = .command 0xFF0000#24 :: [] ∧
    (0xFF0000#24).extractLsb' 16 8 ∉ opcodes := by decide

theorem witness_PowerOn :
    ({ State.reset with busy := true, inputs := [.powerOn, .command 0x010000#24] } : State).inputs =
      .powerOn :: [.command 0x010000#24] ∧
    decode 0x010000#24 = .ok .initSpi := ⟨rfl, rfl⟩

theorem witness_TakingTheResponse :
    ({ State.reset with rspValid := true, inputs := [.takeResponse] } : State).busy = false ∧
    ({ State.reset with rspValid := true, inputs := [.takeResponse] } : State).inputs =
      .takeResponse :: [] := ⟨rfl, rfl⟩

/-- A faulted PCBS offered a command, and the same reset. -/
def faultedBench (i : Input) : State :=
  { State.reset with
    fault := true, faultCode := .badArgument, faultCmd := 0x290500#24, inputs := [i] }

theorem witness_FaultIsSticky :
    (faultedBench (.command 0x010000#24)).fault = true ∧
    (faultedBench (.command 0x010000#24)).inputs = .command 0x010000#24 :: [] ∧
    step (faultedBench (.command 0x010000#24)) = .next (faultedBench (.command 0x010000#24)) ∧
    (faultedBench .powerOn).fault = true ∧ (faultedBench .powerOn).inputs = .powerOn :: [] := by
  refine ⟨?_, ?_, ?_, ?_, ?_⟩ <;> rfl

theorem witness_Checks :
    (initCommand .initSpi ∧ (accepted .spi [] 0x010000#24).mode ≠ .uninit) ∧
    (¬ initCommand .enable ∧ (accepted .uninit [] 0x200000#24).mode = .uninit) ∧
    (2#8 ≠ 3#8 ∧ 2#8 ≠ 4#8 ∧ (accepted .i2c [] 0x290200#24).mode ≠ .uninit) ∧
    (5#8 ≠ 3#8 ∧ 5#8 ≠ 4#8 ∧ (accepted .spi [] 0x290500#24).mode ≠ .uninit) := by
  refine ⟨⟨.inl rfl, by decide⟩, ⟨?_, rfl⟩, by decide, by decide⟩
  rintro (h | ⟨_, h⟩) <;> cases h

/-- The first conjunct of `passes` for a command that is no INIT. -/
theorem passes_other {i : Instr} {mode : Mode} (hi : ¬ initCommand i) (hm : mode ≠ .uninit)
    (hs : ∀ m, i = .spiIfMode m → m = 3#8 ∨ m = 4#8) : passes i mode :=
  ⟨⟨fun h => absurd h hi, fun h => absurd h hm⟩, hs⟩

theorem passes_defaultConfig (mode : Mode) (hm : mode ≠ .uninit) : passes .defaultConfig mode :=
  passes_other (by rintro (h | ⟨_, h⟩) <;> cases h) hm (by intro m h; cases h)

theorem witness_Checks_pass :
    passes (.spiIfMode 3#8) .spi ∧ passes (.spiIfMode 4#8) .i2c ∧ passes .initSpi .uninit ∧
    ∃ t, exec .initSpi (accepted .uninit [] 0x010000#24) = .next t := by
  refine ⟨passes_other ?_ (by decide) ?_, passes_other ?_ (by decide) ?_, ⟨⟨fun _ => rfl,
    fun _ => .inl rfl⟩, ?_⟩, ⟨_, rfl⟩⟩
  · rintro (h | ⟨_, h⟩) <;> cases h
  · intro m h; cases h; exact .inl rfl
  · rintro (h | ⟨_, h⟩) <;> cases h
  · intro m h; cases h; exact .inr rfl
  · intro m h; cases h

/-- The waiting clause at both ends: no action done, and all but the last of 25. -/
theorem witness_Uncompleted :
    (bench .spi [] 0x500000#24).busy = false ∧ (bench .spi [] 0x500000#24).fault = false ∧
    (bench .spi [] 0x500000#24).inputs = .command 0x500000#24 :: [] ∧
    decode 0x500000#24 = .ok .defaultConfig ∧
    passes .defaultConfig (bench .spi [] 0x500000#24).mode ∧
    ({ bench .spi [] 0x500000#24 with stall := some 24 } : State).stall = some 24 ∧
    24 < busActions .defaultConfig .spi ∧ 0 < busActions .defaultConfig .i2c ∧
    (accepted .spi [] 0x500000#24).busy = true ∧
    (∀ rest, (accepted .spi [] 0x500000#24).inputs ≠ .powerOn :: rest) := by
  refine ⟨rfl, rfl, rfl, rfl, passes_defaultConfig _ (by decide), rfl, by decide, by decide, rfl,
    fun rest h => ?_⟩
  cases h

theorem witness_CommandsIssue :
    passes .defaultConfig (accepted .spi [] 0x500000#24).mode ∧
    (accepted .spi [] 0x500000#24).completes (busActions .defaultConfig .spi) = true ∧
    ({ accepted .spi [] 0x500000#24 with stall := some 25 } : State).completes
      (busActions .defaultConfig .spi) = true := by
  refine ⟨passes_defaultConfig _ (by decide), by decide, by decide⟩

theorem witness_InitSpi :
    (accepted .i2c [] 0x010000#24).mode ≠ .uninit ∧
    (accepted .uninit [] 0x010000#24).mode = .uninit ∧
    (accepted .uninit [] 0x010000#24).completes 1 = true := by decide

theorem witness_InitI2c :
    (accepted .spi [] 0x025D00#24).mode ≠ .uninit ∧
    (accepted .uninit [] 0x025D00#24).mode = .uninit := by decide

theorem witness_ReadReg :
    (accepted .uninit [] 0x100F00#24).mode = .uninit ∧
    (accepted .spi [0xBB#8] 0x100F00#24).mode ≠ .uninit ∧
    (accepted .spi [0xBB#8] 0x100F00#24).completes (readActions .spi) = true ∧
    ({ accepted .i2c [0xBB#8] 0x100F00#24 with stall := some 2 } : State).completes
      (readActions .i2c) = true := by decide

theorem witness_WriteReg :
    (accepted .uninit [] 0x112074#24).mode = .uninit ∧
    (accepted .i2c [] 0x112074#24).mode ≠ .uninit ∧
    (accepted .i2c [] 0x112074#24).completes (writeActions .i2c) = true ∧
    ({ accepted .spi [] 0x112074#24 with stall := some 3 } : State).completes
      (writeActions .spi) = true := by decide

/-- For the read-modify-write commands: CTRL_REG1, CTRL_REG2, INT_CFG_REG and RES_CONFIG. -/
theorem witness_CtrlReg1Bits :
    (accepted .uninit [] 0x200000#24).mode = .uninit ∧
    (accepted .spi [0x5A#8] 0x200000#24).mode ≠ .uninit ∧
    (accepted .spi [0x5A#8] 0x200000#24).completes (readActions .spi + writeActions .spi) = true := by
  decide

theorem witness_SetOdr :
    (accepted .uninit [] 0x220900#24).mode = .uninit ∧
    (accepted .i2c [0x5A#8] 0x220900#24).mode ≠ .uninit ∧
    (accepted .i2c [0x5A#8] 0x220900#24).completes (readActions .i2c + writeActions .i2c) = true := by
  decide

theorem witness_SpiIfMode :
    (accepted .uninit [] 0x290500#24).mode = .uninit ∧
    ((accepted .spi [] 0x290500#24).mode ≠ .uninit ∧ 5#8 ≠ 3#8 ∧ 5#8 ≠ 4#8) ∧
    (accepted .spi [0x5A#8] 0x290300#24).completes (readActions .spi + writeActions .spi) = true ∧
    (accepted .i2c [0x5A#8] 0x290400#24).completes (readActions .i2c + writeActions .i2c) = true := by
  decide

theorem witness_CtrlReg2 :
    (accepted .uninit [] 0x300100#24).mode = .uninit ∧
    (accepted .spi [0x5A#8] 0x300100#24).mode ≠ .uninit ∧
    (accepted .spi [0x5A#8] 0x300100#24).completes (readActions .spi + writeActions .spi) = true := by
  decide

theorem witness_SetIntCfg :
    (accepted .uninit [] 0x320500#24).mode = .uninit ∧
    (accepted .i2c [0x01#8] 0x320500#24).mode ≠ .uninit ∧
    (accepted .i2c [0x01#8] 0x320500#24).completes (readActions .i2c + writeActions .i2c) = true := by
  decide

theorem witness_SetConfig :
    (accepted .uninit [] 0x408100#24).mode = .uninit ∧
    (accepted .spi [0x5A#8] 0x408100#24).mode ≠ .uninit ∧
    (accepted .spi [0x5A#8] 0x408100#24).completes (readActions .spi + writeActions .spi) = true := by
  decide

theorem witness_GetConfig_ReadId :
    (accepted .uninit [] 0x410000#24).mode = .uninit ∧
    (accepted .i2c [0x78#8] 0x420000#24).mode ≠ .uninit ∧
    (accepted .i2c [0x78#8] 0x420000#24).completes (readActions .i2c) = true := by decide

theorem witness_GetIntState :
    (accepted .uninit [] 0x430000#24).mode = .uninit ∧
    (accepted .spi [] 0x430000#24).mode ≠ .uninit ∧
    (accepted .spi [] 0x430000#24).completes 1 = true := by decide

theorem witness_DefaultConfig :
    (accepted .uninit [] 0x500000#24).mode = .uninit ∧
    (accepted .spi [] 0x500000#24).mode ≠ .uninit ∧
    (accepted .spi [] 0x500000#24).completes (4 * readActions .spi + 3 * writeActions .spi) = true := by
  decide

/-- The next-command clause of FalseDefaultConfigIsNoFault: a GET_INT_STATE waits behind. -/
theorem witness_FalseDefaultConfig_next :
    let s : State := { accepted .spi [0x78#8, 0x74#8, 0xF4#8, 0xBC#8] 0x500000#24 with
      inputs := [.command 0x430000#24] }
    s.mode ≠ .uninit ∧ s.fault = false ∧
    s.completes (4 * readActions s.mode + 3 * writeActions s.mode) = true ∧
    s.byteAt 3 ≠ 0xBB#8 ∧
    s.inputs = .command 0x430000#24 :: [] ∧ decode 0x430000#24 = .ok .getIntState :=
  ⟨by decide, rfl, by decide, by decide, rfl, rfl⟩

theorem witness_FalseDefaultConfig :
    (accepted .spi [0x78#8, 0x74#8, 0xF4#8, 0xBC#8] 0x500000#24).mode ≠ .uninit ∧
    (accepted .spi [0x78#8, 0x74#8, 0xF4#8, 0xBC#8] 0x500000#24).fault = false ∧
    (accepted .spi [0x78#8, 0x74#8, 0xF4#8, 0xBC#8] 0x500000#24).completes
      (4 * readActions .spi + 3 * writeActions .spi) = true ∧
    (accepted .spi [0x78#8, 0x74#8, 0xF4#8, 0xBC#8] 0x500000#24).byteAt 3 ≠ 0xBB#8 := by decide

theorem witness_GetPressure :
    (accepted .uninit [] 0x600000#24).mode = .uninit ∧
    (accepted .i2c [] 0x600000#24).mode ≠ .uninit ∧
    (accepted .i2c [] 0x600000#24).completes (3 * readActions .i2c) = true := by decide

theorem witness_GetTemperature :
    (accepted .uninit [] 0x610000#24).mode = .uninit ∧
    (accepted .spi [] 0x610000#24).mode ≠ .uninit ∧
    (accepted .spi [] 0x610000#24).completes (2 * readActions .spi) = true := by decide

theorem witness_WireFrames :
    (accepted .spi [0x11#8] 0x104000#24).mode = .spi ∧
    (accepted .spi [0x11#8] 0x104000#24).completes 4 = true ∧
    (accepted .spi [0x11#8] 0x104000#24).completes 3 = true ∧
    (accepted .i2c [0x11#8] 0x104000#24).mode = .i2c ∧
    (accepted .i2c [0x11#8] 0x104000#24).completes 2 = true ∧
    (accepted .i2c [0x11#8] 0x104000#24).completes 1 = true := by decide

theorem witness_RmwPreserves :
    rmwTargets Config.default (.setOdr 9#8) = some (0x20#8, 0x20#8) ∧
    rmwField 0x5A#8 (.setOdr 9#8) = some (0x70#8, 0x10#8) ∧
    (accepted .i2c [0x5A#8] 0x220900#24).byteAt 0 = 0x5A#8 ∧
    passes (.setOdr 9#8) (accepted .i2c [0x5A#8] 0x220900#24).mode ∧
    (accepted .i2c [0x5A#8] 0x220900#24).completes (busActions (.setOdr 9#8) .i2c) = true := by
  refine ⟨by decide, by decide, by decide, passes_other ?_ (by decide) ?_, by decide⟩
  · rintro (h | ⟨_, h⟩) <;> cases h
  · intro m h; cases h

theorem witness_Transports :
    (accepted .spi [0x78#8] 0x103F00#24).mode = .spi ∧ passes (.readReg 0x3F#8) .spi ∧
    addressesMaskFree (.readReg 0x3F#8) Config.default ∧
    (accepted .spi [0x78#8] 0x103F00#24).completes (busActions (.readReg 0x3F#8) .spi) = true := by
  refine ⟨rfl, passes_other ?_ (by decide) ?_, ?_, by decide⟩
  · rintro (h | ⟨_, h⟩) <;> cases h
  · intro m h; cases h
  · refine ⟨rfl, rfl, rfl, rfl, rfl, rfl, rfl, rfl, rfl, rfl, ?_, ?_⟩
    · intro a h; cases h; rfl
    · intro a v h; cases h

/-- Two histories of draws; a wait-free collaborator and one that completes just enough. -/
theorem witness_ReadValues :
    (accepted .spi [0xFF#8] 0x200000#24).mode = (accepted .spi [0x00#8] 0x200000#24).mode ∧
    (accepted .spi [0xFF#8] 0x200000#24).slave = (accepted .spi [0x00#8] 0x200000#24).slave ∧
    (accepted .spi [0xFF#8] 0x200000#24).cfg = (accepted .spi [0x00#8] 0x200000#24).cfg ∧
    (accepted .spi [0x00#8] 0x200000#24).completes (busActions .enable .spi) = true ∧
    ({ accepted .spi [0xFF#8] 0x200000#24 with stall := some 7 } : State).completes
      (busActions .enable .spi) = true := by decide

theorem witness_PressureIsExact : 0 < 2 ^ 24 ∧ 16777215 < 2 ^ 24 := by decide

theorem witness_Rounding :
    (Frac.mk 1 3).den ≠ 0 ∧ binary32 ⟨true, 2 ^ 24 - 1, -149⟩ ∧ binary32 ⟨false, 0, 0⟩ := by
  refine ⟨by decide, ⟨by norm_num, by norm_num⟩, ⟨by norm_num, by norm_num⟩⟩

/-- The bounds serve NoSpecialMeasurement and MeasurementsStayInRange. -/
theorem witness_NoSpecial_Range :
    (0 < 2 ^ 24 ∧ 16777215 < 2 ^ 24) ∧ ((-32768 : Int) ≤ -32768 ∧ (-32768 : Int) ≤ 32767) ∧
    ((-32768 : Int) ≤ 32767 ∧ (32767 : Int) ≤ 32767) := by decide

/-- A command that completes, one that waits, one that faults. -/
theorem witness_CommandsWriteOnly :
    (∃ t, exec .enable (accepted .spi [0x5A#8] 0x200000#24) = .next t ∧ t.busy = false) ∧
    (∃ t, exec .enable { accepted .spi [] 0x200000#24 with stall := some 4 } = .next t ∧
      t.busy = true) ∧
    (∃ t, exec .enable (accepted .uninit [] 0x200000#24) = .next t ∧ t.fault = true) := by
  refine ⟨⟨_, rfl, rfl⟩, ⟨_, rfl, rfl⟩, ⟨_, rfl, rfl⟩⟩

theorem witness_BusBinding :
    (bench .spi [] 0x010000#24).mode ≠ .uninit ∧
    (∀ rest, (bench .spi [] 0x010000#24).inputs ≠ .powerOn :: rest) ∧
    ∃ t, step (bench .spi [] 0x010000#24) = .next t := by
  refine ⟨by decide, fun rest h => ?_, ⟨_, rfl⟩⟩
  cases h

theorem witness_StepKeepsTheInvariant :
    StateInv (bench .spi [0x5A#8] 0x200000#24) ∧
    ∃ t, step (bench .spi [0x5A#8] 0x200000#24) = .next t := by
  refine ⟨⟨fun _ => ⟨rfl, rfl, rfl⟩, ?_, ⟨fun _ => ⟨rfl, rfl⟩, ?_⟩, rfl⟩, ⟨_, rfl⟩⟩
  · intro h; cases h
  · intro h; cases h

theorem witness_StepKeepsTheFraming :
    FramingHolds (after (step (bench .i2c [0x5A#8] 0x200000#24))) ∧
    ∃ t, step (after (step (bench .i2c [0x5A#8] 0x200000#24))) = .next t :=
  ⟨⟨by decide, fun _ => rfl⟩, ⟨_, rfl⟩⟩

theorem witness_StepKeepsToItsTransport :
    TransportHolds (after (step (bench .i2c [0x5A#8] 0x200000#24))) ∧
    ∃ t, step (after (step (bench .i2c [0x5A#8] 0x200000#24))) = .next t := by
  refine ⟨?_, ⟨_, rfl⟩⟩
  intro e he
  have hl : (after (step (bench .i2c [0x5A#8] 0x200000#24))).trace =
      [.accept 0x200000#24, .bus (.i2cWrite 0x5D#8 [0x20#8] .restart) .done,
       .bus (.i2cRead 0x5D#8 .stop) (.byte 0x5A#8),
       .bus (.i2cWrite 0x5D#8 [0x20#8, 0xDA#8] .stop) .done, .respond .none 0#32] := by decide
  rw [hl] at he
  simp only [List.mem_cons, List.not_mem_nil, or_false] at he
  rcases he with rfl | rfl | rfl | rfl | rfl <;> trivial

/-- Two idle SPI states that differ in SLAVE, CMD, ACC, TMP and FAIL. -/
theorem witness_Unspecified :
    SameButUnread (bench .spi [0x5A#8] 0x500000#24)
      { bench .spi [0x5A#8] 0x500000#24 with
        slave := 1#8, cmd := 2#24, acc := 3#32, tmp := 4#8, fail := true } ∧
    ∃ t, step (bench .spi [0x5A#8] 0x500000#24) = .next t := by
  refine ⟨⟨fun h => ?_, rfl⟩, ⟨_, rfl⟩⟩
  cases h

end Sys2Proof.Tests
end

section
/-!
PROOFS. Rounding to binary32 (R17, R142): among the numbers k * 2 ^ j that are binary32 values none
is nearer than the rounded significand in units of its last bit.  Values on the grid of that unit
are settled by `roundTiesEven_spec`; a value off the grid has a finer last bit, so it lies strictly
below the grid point 2 ^ 23, which itself is not above the number rounded.
-/

namespace Sys2Proof.Proofs

open Sys2Proof.Spec

/-! ## Preferring one approximation to another -/

/-- r approximates x no worse than v does, and `tie` licenses r against another v equally near. -/
def Prefers (r v x : ℚ) (tie : Prop) : Prop :=
  |r - x| ≤ |v - x| ∧ (|r - x| = |v - x| → v = r ∨ tie)

/-- A change of unit or of sign keeps the preference. -/
theorem Prefers.mul {r v x c : ℚ} {tie : Prop} (h : Prefers r v x tie) (hc : c ≠ 0) :
    Prefers (r * c) (v * c) (x * c) tie := by
  obtain ⟨hle, htie⟩ := h
  have hpos : 0 < |c| := abs_pos.mpr hc
  unfold Prefers
  rw [← sub_mul, ← sub_mul, abs_mul, abs_mul]
  refine ⟨by gcongr, fun heq => ?_⟩
  exact (htie (mul_right_cancel₀ hpos.ne' heq)).imp_left fun hv => by rw [hv]

/-- A tie-break may be weakened. -/
theorem Prefers.mono {r v x : ℚ} {tie tie' : Prop} (h : Prefers r v x tie) (ht : tie → tie') :
    Prefers r v x tie' :=
  ⟨h.1, fun heq => (h.2 heq).imp_right ht⟩

/-- What is preferred to g is preferred to everything strictly below a g that is not above x. -/
theorem Prefers.below {r g v x : ℚ} {tie : Prop} (h : Prefers r g x tie) (hv : v < g)
    (hg : g ≤ x) : Prefers r v x tie := by
  have hfar : |g - x| < |v - x| := by
    rw [abs_of_nonpos (by linarith), abs_of_nonpos (by linarith)]
    linarith
  exact ⟨h.1.trans hfar.le, fun heq => absurd heq (h.1.trans_lt hfar).ne⟩

/-! ## The rounded significand -/

/-- `roundTiesEven_spec`, over the rationals. -/
theorem roundTiesEven_prefers (n d : Nat) (hd : d ≠ 0) (k : Int) :
    Prefers (roundTiesEven n d) k ((n : ℚ) / d) (roundTiesEven n d % 2 = 0) := by
  have hd0 : (d : ℚ) ≠ 0 := by exact_mod_cast hd
  have cast (m : Int) : |(m : ℚ) * d - n| = ((m * d - n).natAbs : ℚ) := by
    rw [Nat.cast_natAbs]; push_cast; rfl
  have hscaled : Prefers ((roundTiesEven n d : Int) * d) (k * d) n (roundTiesEven n d % 2 = 0) := by
    obtain ⟨hle, htie⟩ := roundTiesEven_spec n d hd k
    unfold Prefers
    rw [cast, cast]
    refine ⟨by exact_mod_cast hle, fun heq => ?_⟩
    exact (htie (by exact_mod_cast heq)).imp_left fun hk => by rw [hk]
  have h := hscaled.mul (inv_ne_zero hd0)
  rwa [mul_inv_cancel_right₀ hd0, mul_inv_cancel_right₀ hd0, ← div_eq_mul_inv,
    Int.cast_natCast] at h

/-- The significand is preferred to every other multiple of its last bit. -/
theorem significand_prefers_multiple (n d : Nat) (hd : d ≠ 0) (k : Int) :
    Prefers (significand n d * (2 : ℚ) ^ lastBitExp n d) (k * (2 : ℚ) ^ lastBitExp n d)
      ((n : ℚ) / d) (significand n d % 2 = 0) := by
  obtain ⟨hden, hval⟩ := scaledBy_value n d (-lastBitExp n d) hd
  have hu : (2 : ℚ) ^ lastBitExp n d ≠ 0 := zpow_ne_zero _ two_ne_zero
  have h := (roundTiesEven_prefers (scaledBy n d (-lastBitExp n d)).1 _ hden k).mul hu
  rwa [hval, zpow_neg, inv_mul_cancel_right₀ hu] at h

/-- No number below 2 ^ 24 units rounds above 2 ^ 24. -/
theorem significand_le (n d : Nat) (hn : n ≠ 0) (hd : d ≠ 0) : significand n d ≤ 2 ^ 24 := by
  have hu : (0 : ℚ) < (2 : ℚ) ^ lastBitExp n d := by positivity
  have hx : (n : ℚ) / d < (2 : ℚ) ^ 24 * (2 : ℚ) ^ lastBitExp n d := by
    calc (n : ℚ) / d < (2 : ℚ) ^ (floorLog2 n d + 1) := (floorLog2_spec n d hn hd).2
      _ ≤ (2 : ℚ) ^ (24 + lastBitExp n d) :=
        zpow_le_zpow_right₀ one_le_two (by unfold lastBitExp; omega)
      _ = (2 : ℚ) ^ 24 * (2 : ℚ) ^ lastBitExp n d := by
        rw [zpow_add₀ two_ne_zero]; norm_cast
  by_contra! hlt
  have hm : (2 : ℚ) ^ 24 * (2 : ℚ) ^ lastBitExp n d <
      significand n d * (2 : ℚ) ^ lastBitExp n d := by
    gcongr; exact_mod_cast hlt
  have hnear := (significand_prefers_multiple n d hd (2 ^ 24)).1
  push_cast at hnear
  rw [abs_of_pos (by linarith), abs_of_pos (by linarith)] at hnear
  linarith

/-- A number whose last bit is above the subnormals' 2 ^ -149 is at least 2 ^ 23 such units. -/
theorem grid_point_le_of_normal (n d : Nat) (hn : n ≠ 0) (hd : d ≠ 0)
    (he : -149 < lastBitExp n d) :
    (2 : ℚ) ^ (23 + lastBitExp n d) ≤ (n : ℚ) / d := by
  have hexp : 23 + lastBitExp n d = floorLog2 n d := by unfold lastBitExp at *; omega
  rw [hexp]
  exact (floorLog2_spec n d hn hd).1

/-- The significand is preferred to every binary32 value k * 2 ^ j. -/
theorem significand_prefers (n d : Nat) (hn : n ≠ 0) (hd : d ≠ 0) (k j : Int)
    (hk : |k| < 2 ^ 24) (hj : -149 ≤ j) :
    Prefers (significand n d * (2 : ℚ) ^ lastBitExp n d) (k * (2 : ℚ) ^ j)
      ((n : ℚ) / d) (significand n d % 2 = 0) := by
  obtain hle | hlt := le_or_gt (lastBitExp n d) j
  · -- on the grid
    obtain ⟨i, hi⟩ := Int.le.dest hle
    have h := significand_prefers_multiple n d hd (k * 2 ^ i)
    have hgrid : ((k * 2 ^ i : Int) : ℚ) * (2 : ℚ) ^ lastBitExp n d = k * (2 : ℚ) ^ j := by
      rw [← hi, add_comm, zpow_add₀ two_ne_zero, zpow_natCast]
      push_cast
      ring
    rwa [hgrid] at h
  · -- finer than the grid
    have hfine : (k : ℚ) * (2 : ℚ) ^ j < (2 : ℚ) ^ (23 + lastBitExp n d) := by
      have hk' : (k : ℚ) < (2 : ℚ) ^ 24 := by exact_mod_cast (le_abs_self k).trans_lt hk
      calc (k : ℚ) * (2 : ℚ) ^ j < (2 : ℚ) ^ 24 * (2 : ℚ) ^ j := by gcongr
        _ = (2 : ℚ) ^ (24 + j) := by rw [zpow_add₀ two_ne_zero]; norm_cast
        _ ≤ (2 : ℚ) ^ (23 + lastBitExp n d) := zpow_le_zpow_right₀ one_le_two (by omega)
    have h := significand_prefers_multiple n d hd (2 ^ 23)
    have hgrid : ((2 ^ 23 : Int) : ℚ) * (2 : ℚ) ^ lastBitExp n d =
        (2 : ℚ) ^ (23 + lastBitExp n d) := by
      rw [zpow_add₀ two_ne_zero]; norm_cast
    rw [hgrid] at h
    exact h.below hfine (grid_point_le_of_normal n d hn hd (by omega))

/-! ## `f32` -/

/-- A zero is +0.0. -/
theorem f32_of_num_zero (q : Frac) (hn : q.num = 0) : f32 q = ⟨false, 0, -149⟩ := by
  unfold f32
  exact if_pos (by omega)

/-- `f32(q)` is a binary32 value: a significand rounded up to 2 ^ 24 carries into the
exponent. -/
theorem f32_binary32 (q : Frac) (hd : q.den ≠ 0) : binary32 (f32 q) := by
  by_cases hn : q.num = 0
  · rw [f32_of_num_zero q hn]
    exact ⟨by norm_num, le_rfl⟩
  · have hm := significand_le q.num.natAbs q.den (by omega) hd
    have he : -149 ≤ lastBitExp q.num.natAbs q.den := by unfold lastBitExp; omega
    rw [f32_eq q hn]
    split_ifs with hcarry hzero
    · exact ⟨by norm_num, by dsimp only; omega⟩
    · exact ⟨by norm_num, le_rfl⟩
    · exact ⟨by dsimp only; omega, he⟩

/-- The significand of `f32(q)` is even where the rounded one is, the carried one included. -/
theorem f32_mant_even (q : Frac) (hn : q.num ≠ 0)
    (h : significand q.num.natAbs q.den % 2 = 0) : (f32 q).mant % 2 = 0 := by
  rw [f32_eq q hn]
  split_ifs
  · norm_num
  · rfl
  · exact h

/-- A binary32 value is a 24-bit integer in units of its last bit. -/
theorem binary32_value {y : B32} (hy : binary32 y) :
    ∃ k : Int, |k| < 2 ^ 24 ∧ ratOf y.value = k * (2 : ℚ) ^ y.exp := by
  obtain ⟨hmant, -⟩ := hy
  refine ⟨(if y.neg then -1 else 1) * y.mant, ?_, ?_⟩
  · split_ifs <;> simp <;> exact_mod_cast hmant
  · rw [ratOf, (B32.value_eq y).2]
    push_cast
    rfl

/-- A fraction is its sign times its magnitude. -/
theorem ratOf_eq_sign_mul (q : Frac) :
    ratOf q = (q.num.natAbs : ℚ) / q.den * (if q.num < 0 then -1 else 1) := by
  have hnum : (q.num : ℚ) = q.num.natAbs * (if q.num < 0 then -1 else 1) := by
    rw [Nat.cast_natAbs]
    split_ifs with hneg
    · rw [abs_of_neg hneg]; simp
    · rw [abs_of_nonneg (not_lt.mp hneg)]; simp
  rw [ratOf, hnum]
  ring

/-- `f32(q)` is preferred to every binary32 value, ties going to an even significand. -/
theorem f32_prefers (q : Frac) (hd : q.den ≠ 0) {y : B32} (hy : binary32 y) :
    Prefers (ratOf (f32 q).value) (ratOf y.value) (ratOf q) ((f32 q).mant % 2 = 0) := by
  by_cases hn : q.num = 0
  · have hf : ratOf (f32 q).value = ratOf q := by
      rw [ratOf, ratOf, (B32.value_eq _).2, f32_of_num_zero q hn, hn]
      simp
    rw [hf]
    exact ⟨by simp, fun _ => .inr (by simp [f32_of_num_zero q hn])⟩
  · obtain ⟨k, hk, hval⟩ := binary32_value hy
    rw [ratOf, f32_value q hn, hval, ratOf_eq_sign_mul]
    have hmag (l : Int) (hl : |l| < 2 ^ 24) :=
      (significand_prefers q.num.natAbs q.den (by omega) hd l y.exp hl hy.2).mono
        (f32_mant_even q hn)
    split_ifs
    · have h := (hmag (-k) (by rwa [abs_neg])).mul (c := -1) (by norm_num)
      push_cast at h
      convert h using 1 <;> ring
    · have h := hmag k hk
      rwa [one_mul, mul_one]

/-- Settles O39: values on the grid of the last bit by the nearest-integer rule, finer values
because they lie below the grid point 2 ^ 23. -/
theorem roundingIsNearestTiesToEven : Obligations.RoundingIsNearestTiesToEven :=
  fun q hd => ⟨f32_binary32 q hd, fun _ hy => f32_prefers q hd hy⟩

end Sys2Proof.Proofs
end

section
/-!
PROOFS. What a step can do, said once: `step_moves` lists the states a step can leave, with all that
is known of the command that ran, for invariants to be proved one case at a time.
-/

namespace Sys2Proof.Machine

open Sys2Proof.Spec

/-! ## The checks (R163 to R166) -/

theorem isInit_iff (i : Instr) : isInit i = true ↔ initCommand i := by
  cases i <;> simp [isInit, initCommand]

theorem badOperand_eq_false_iff (i : Instr) :
    badOperand i = false ↔ ∀ m, i = .spiIfMode m → m = 3#8 ∨ m = 4#8 := by
  cases i with
  | spiIfMode m => simp [badOperand, or_iff_not_imp_left]
  | _ => simp [badOperand]

/-- The check lets exactly the commands through that pass the checks of R166. -/
theorem check_eq_none_iff (i : Instr) (mode : Mode) : check i mode = none ↔ passes i mode := by
  rw [passes, ← isInit_iff, ← badOperand_eq_false_iff]
  unfold check
  cases isInit i <;> cases mode <;> cases badOperand i <;> decide

/-- A check that fails gives a code of R161 other than NONE. -/
theorem code_ne_none_of_check {i : Instr} {mode : Mode} {code : FaultCode}
    (h : check i mode = some code) : code ≠ .none := by
  unfold check at h
  split_ifs at h <;> cases h <;> simp

/-- A command that passes the checks of R166 does its bus actions and responds. -/
theorem command_of_passes {i : Instr} {s : State} (h : passes i s.mode) :
    ∃ s0 t m evs kind data, Command i s s0 t m evs kind data := by
  obtain ⟨code, hcheck, -⟩ | ⟨-, hran⟩ := exec_cases i s
  · simp [(check_eq_none_iff i s.mode).mpr h] at hcheck
  · exact hran

/-! ## The response -/

section
variable (kind : RspKind) (data : Word32) (s : State)

@[simp] theorem responded_mode : (responded kind data s).mode = s.mode := rfl
@[simp] theorem responded_slave : (responded kind data s).slave = s.slave := rfl
@[simp] theorem responded_csLvl : (responded kind data s).csLvl = s.csLvl := rfl
@[simp] theorem responded_busy : (responded kind data s).busy = false := rfl
@[simp] theorem responded_stepIdx : (responded kind data s).stepIdx = 0#5 := rfl
@[simp] theorem responded_fault : (responded kind data s).fault = s.fault := rfl
@[simp] theorem responded_faultCode : (responded kind data s).faultCode = s.faultCode := rfl
@[simp] theorem responded_faultCmd : (responded kind data s).faultCmd = s.faultCmd := rfl
@[simp] theorem responded_rspValid : (responded kind data s).rspValid = true := rfl
@[simp] theorem responded_rspKind : (responded kind data s).rspKind = kind := rfl
@[simp] theorem responded_rspData : (responded kind data s).rspData = data := rfl
@[simp] theorem responded_port : (responded kind data s).port = s.port := rfl
@[simp] theorem responded_trace :
    (responded kind data s).trace = s.trace ++ [.respond kind data] := rfl

end

/-! ## A command that passes its check -/

/-- The longest command, DEFAULT_CONFIG over SPI, has 25 bus actions (R25, R200). -/
theorem busActions_le (i : Instr) (mode : Mode) : busActions i mode ≤ 25 := by
  cases mode <;> cases i <;>
    simp [busActions, registerReads, registerWrites, readActions, writeActions]

/-- The number of bus actions in a list of bus actions is its length. -/
theorem countBus_of_onBus {mode : Mode} {slave : Byte} {evs : List Event}
    (h : ∀ e ∈ evs, e.onBus mode slave) : countBus evs = evs.length := by
  induction evs with
  | nil => rfl
  | cons e es ih =>
    obtain ⟨a, v, rfl, -⟩ := h e (by simp)
    rw [countBus, ih fun f hf => h f (by simp [hf]), List.length_cons]

theorem countBus_append (es fs : List Event) : countBus (es ++ fs) = countBus es + countBus fs := by
  induction es with
  | nil => simp [countBus]
  | cons e es ih =>
    cases e with
    | bus => simp only [List.cons_append, countBus, ih]; omega
    | _ => exact ih

section
variable {i : Instr} {s s0 t : State} {m : Flow} {evs : List Event} {kind : RspKind} {data : Word32}

/-- Before its bus actions a command writes MODE and SLAVE at most (R96, R97). -/
theorem Command.bound (c : Command i s s0 t m evs kind data) :
    ∃ mode slave, s0 = { s with mode := mode, slave := slave } := by
  obtain h | ⟨-, h⟩ | ⟨sa, -, h⟩ := c.start
  · exact ⟨s.mode, s.slave, h⟩
  · exact ⟨.spi, s.slave, h⟩
  · exact ⟨.i2c, sa, h⟩

/-- Only an uninitialised PCBS is bound to a bus (R164). -/
theorem Command.binds_once (c : Command i s s0 t m evs kind data) (h : check i s.mode = none) :
    s0 = s ∨ s.mode = .uninit := by
  obtain ⟨hinit, -⟩ := (check_eq_none_iff i s.mode).mp h
  obtain h | ⟨hi, -⟩ | ⟨sa, hi, -⟩ := c.start
  · exact .inl h
  · exact .inr (hinit.mp (.inl hi))
  · exact .inr (hinit.mp (.inr ⟨sa, hi⟩))

theorem Command.length_le (c : Command i s s0 t m evs kind data) : evs.length ≤ 25 :=
  c.count ▸ busActions_le i s.mode

theorem Command.stall_eq (c : Command i s s0 t m evs kind data) : s0.stall = s.stall := by
  obtain ⟨mode, slave, rfl⟩ := c.bound
  rfl

/-- A command whose bus actions complete posts its response. -/
theorem Command.responds (c : Command i s s0 t m evs kind data)
    (hc : s0.completes evs.length = true) : exec i s = .next (responded kind data t) := by
  rw [c.exec_eq, c.does.completed hc]
  rfl

/-- A command with a bus action that does not complete waits for it. -/
theorem Command.waits (c : Command i s s0 t m evs kind data) {k : Nat} (hk : s.stall = some k)
    (hlt : k < evs.length) :
    ∃ u, exec i s = .next u ∧ u.port ≠ none ∧ Advanced s0 u (evs.take k) :=
  ⟨_, c.exec_eq, c.does.stuck (c.stall_eq.trans hk) hlt⟩

end

/-! ## The step -/

/-- The states a step can leave from s. -/
inductive Moves (s : State) : State → Prop
  /-- nothing is taken from the command port -/
  | stays : Moves s s
  | powersOn (rest : List Input) (head : s.inputs = .powerOn :: rest) : Moves s (powerOn s)
  | takes (idle : s.busy = false) : Moves s (takeResponse s)
  /-- the accepted word is illegal, or its command fails its check -/
  | faults (w : CmdWord) (code : FaultCode) (good : s.good) (hcode : code ≠ .none) :
      Moves s (raiseFault code (accept w s))
  | responds {i : Instr} {w : CmdWord} {s0 t : State} {m : Flow} {evs : List Event}
      {kind : RspKind} {data : Word32} (good : s.good) (pass : check i s.mode = none)
      (ran : Command i (accept w s) s0 t m evs kind data) : Moves s (responded kind data t)
  /-- the k-th bus action is the last to complete -/
  | waits {i : Instr} {w : CmdWord} {s0 t u : State} {m : Flow} {evs : List Event}
      {kind : RspKind} {data : Word32} {k : Nat} (good : s.good) (pass : check i s.mode = none)
      (ran : Command i (accept w s) s0 t m evs kind data) (stalls : s.stall = some k)
      (short : k < evs.length) (port : u.port ≠ none) (advanced : Advanced s0 u (evs.take k)) :
      Moves s u

/-- An accepted command ends in a fault, in its response, or in a wait. -/
theorem exec_moves (i : Instr) (w : CmdWord) {s : State} (good : s.good) :
    ∃ t, exec i (accept w s) = .next t ∧ Moves s t := by
  obtain ⟨code, hcheck, hexec⟩ | ⟨pass, s0, t, m, evs, kind, data, ran⟩ := exec_cases i (accept w s)
  · exact ⟨_, hexec, .faults w code good (code_ne_none_of_check hcheck)⟩
  · by_cases hc : s0.completes evs.length = true
    · exact ⟨_, ran.responds hc, .responds good pass ran⟩
    · obtain ⟨k, hk, hlt⟩ := (not_completes_iff s0 _).mp (by simpa using hc)
      have stalls := ran.stall_eq.symm.trans hk
      obtain ⟨u, hexec, port, advanced⟩ := ran.waits stalls hlt
      exact ⟨u, hexec, .waits good pass ran stalls hlt port advanced⟩

theorem step_of_powerOn {s : State} {rest : List Input} (h : s.inputs = .powerOn :: rest) :
    step s = .next (powerOn s) := by
  simp [step, offered, h]

theorem step_of_takeResponse {s : State} {rest : List Input} (hb : s.busy = false)
    (h : s.inputs = .takeResponse :: rest) : step s = .next (takeResponse s) := by
  simp [step, offered, h, hb]

theorem step_of_command {s : State} {w : CmdWord} {rest : List Input} {i : Instr} (good : s.good)
    (h : s.inputs = .command w :: rest) (hd : decode w = .ok i) :
    step s = exec i (accept w s) := by
  simp [step, offered, h, good.1, good.2, hd]

theorem step_of_illegal {s : State} {w : CmdWord} {rest : List Input} {opc : Byte} (good : s.good)
    (h : s.inputs = .command w :: rest) (hd : decode w = .error (.illegalOpcode opc)) :
    step s = .next (raiseFault .illegalOpcode (accept w s)) := by
  simp [step, offered, h, good.1, good.2, hd, rejectCommand]

/-- A step with nothing to take changes nothing (log entry 12). -/
theorem step_of_nothing {s : State} (h : offered s = .nothing) : step s = .next s := by
  simp [step, h]

/-- A waiting machine takes nothing but a power-on (R24, R49, R185). -/
theorem step_of_busy {s : State} (hb : s.busy = true) (h : ∀ rest, s.inputs ≠ .powerOn :: rest) :
    step s = .next s := by
  apply step_of_nothing
  unfold offered
  split
  · rfl
  · exact absurd ‹_› (h _)
  · simp [hb]
  · simp [hb]

/-- Every step answers a next state, one of those `Moves` lists. -/
theorem step_moves (s : State) : ∃ t, step s = .next t ∧ Moves s t := by
  cases hin : s.inputs with
  | nil => exact ⟨s, step_of_nothing (by simp [offered, hin]), .stays⟩
  | cons head rest =>
    cases head with
    | powerOn => exact ⟨_, step_of_powerOn hin, .powersOn rest hin⟩
    | takeResponse =>
      cases hb : s.busy with
      | true => exact ⟨s, step_of_nothing (by simp [offered, hin, hb]), .stays⟩
      | false => exact ⟨_, step_of_takeResponse hb hin, .takes hb⟩
    | command w =>
      by_cases good : s.good
      · cases hd : decode w with
        | ok i => rw [step_of_command good hin hd]; exact exec_moves i w good
        | error r =>
          obtain ⟨opc⟩ := r
          exact ⟨_, step_of_illegal good hin hd, .faults w _ good (by simp)⟩
      · have hwait : s.busy = true ∨ s.fault = true := by
          by_contra! hgood
          exact good (by simpa using hgood)
        exact ⟨s, step_of_nothing (by simp [offered, hin, hwait]), .stays⟩

theorem Moves.of_step {s t : State} (h : step s = .next t) : Moves s t := by
  obtain ⟨u, hu, hmoves⟩ := step_moves s
  cases hu.symm.trans h
  exact hmoves

end Sys2Proof.Machine
end

section
/-!
PROOFS. The invariants of a step (R25, R29, R43, R49, R81), and what else a single step keeps: the
binding of the bus (R21, R33) and the wait (R49).
-/

namespace Sys2Proof.Machine

/-! ## The state invariant, state by state -/

/-- While FAULT = 0 the fault record is clear (R29). -/
theorem faultRecordHolds_of_clear {s : State} (hf : s.fault = false) (hcode : s.faultCode = .none)
    (hcmd : s.faultCmd = 0#24) : FaultRecordHolds s :=
  ⟨fun _ => ⟨hcode, hcmd⟩, fun h => by simp [hf] at h⟩

/-- The registers of a state of R42 meet the invariant, whatever the outside world does. -/
theorem powerOn_meets_inv (s : State) : StateInv (powerOn s) :=
  ⟨fun _ => ⟨rfl, rfl, rfl⟩, fun h => by simp at h, faultRecordHolds_of_clear rfl rfl rfl, rfl⟩

section
variable {s : State}

theorem takeResponse_keeps_inv (idle : s.busy = false) (h : StateInv s) :
    StateInv (takeResponse s) := by
  obtain ⟨hidle, -, ⟨hclear, hset⟩, hrsp⟩ := h
  refine ⟨hidle, fun hb => by simp [idle] at hb, ⟨hclear, fun hf => ?_⟩, hrsp⟩
  obtain ⟨hcode, -, -⟩ := hset hf
  exact ⟨hcode, idle, rfl⟩

/-- Fault entry leaves an idle PCBS with its fault record set (R167). -/
theorem raiseFault_keeps_inv {w : CmdWord} {code : FaultCode} (good : s.good)
    (hcode : code ≠ .none) (h : StateInv s) : StateInv (raiseFault code (accept w s)) := by
  obtain ⟨hidle, -, -, hrsp⟩ := h
  obtain ⟨-, hcs, hport⟩ := hidle good.1
  exact ⟨fun _ => ⟨rfl, hcs, hport⟩, fun hb => by simp at hb,
    ⟨fun hf => by simp at hf, fun _ => ⟨hcode, rfl, rfl⟩⟩, hrsp⟩

variable {i : Instr} {w : CmdWord} {s0 t u : State} {m : Flow} {evs es : List Event}
  {kind : RspKind} {data : Word32}

/-- During a command the fault record of a good state stays clear. -/
theorem Command.faultRecord (ran : Command i (accept w s) s0 t m evs kind data) (good : s.good)
    (h : FaultRecordHolds s) (advanced : Advanced s0 u es) :
    u.fault = false ∧ u.faultCode = .none ∧ u.faultCmd = 0#24 := by
  obtain ⟨mode, slave, rfl⟩ := ran.bound
  obtain ⟨hcode, hcmd⟩ := h.1 good.2
  exact ⟨advanced.agree.fault.trans good.2, advanced.agree.faultCode.trans hcode,
    advanced.agree.faultCmd.trans hcmd⟩

/-- A response leaves an idle PCBS with RSP_DATA as RSP_KIND lays it out (R43, R81). -/
theorem responded_meets_inv (good : s.good) (ran : Command i (accept w s) s0 t m evs kind data)
    (h : StateInv s) : StateInv (responded kind data t) := by
  obtain ⟨hidle, -, hrecord, -⟩ := h
  obtain ⟨-, hcs, hport⟩ := hidle good.1
  obtain ⟨hf, hcode, hcmd⟩ := ran.faultRecord good hrecord ran.does.advanced
  refine ⟨fun _ => ⟨rfl, ?_, ran.port hport⟩, fun hb => by simp at hb,
    faultRecordHolds_of_clear hf hcode hcmd, ran.data_layout⟩
  exact (ran.cs hcs).trans (by rw [responded_mode, ran.does.advanced.agree.mode])

/-- A wait holds the issued action, within the 25 actions of the longest command (R49). -/
theorem waiting_meets_inv (good : s.good) (ran : Command i (accept w s) s0 t m evs kind data)
    {k : Nat} (stalls : s.stall = some k) (short : k < evs.length) (port : u.port ≠ none)
    (advanced : Advanced s0 u (evs.take k)) (h : StateInv s) : StateInv u := by
  obtain ⟨-, -, hrecord, hrsp⟩ := h
  obtain ⟨hf, hcode, hcmd⟩ := ran.faultRecord good hrecord advanced
  have hlen : (evs.take k).length = k := List.length_take_of_le short.le
  have hmode : u.mode ≠ .uninit := advanced.agree.mode ▸ ran.initialised
  have hk : k < 25 := short.trans_le ran.length_le
  have hstall : u.stall = some 0 := by
    rw [advanced.stall, ran.stall_eq, accept_stall, stalls, hlen]
    simp
  obtain ⟨mode, slave, rfl⟩ := ran.bound
  have hbusy : u.busy = true := advanced.agree.busy
  have hstep : u.stepIdx.toNat < 25 := by
    rw [advanced.stepIdx, hlen]
    simp [accept]
    omega
  refine ⟨fun hb => by simp [hbusy] at hb, fun _ => ⟨port, hstall, hmode, hstep⟩,
    faultRecordHolds_of_clear hf hcode hcmd, ?_⟩
  have hkind : u.rspKind = s.rspKind := advanced.agree.rspKind
  have hdata : u.rspData = s.rspData := advanced.agree.rspData
  unfold ResponseHolds
  rw [hkind, hdata]
  exact hrsp

end

/-- R25, R29, R43, R49, R81: every state a step can leave meets the invariant. -/
theorem Moves.keeps_inv {s t : State} (moves : Moves s t) (h : StateInv s) : StateInv t := by
  cases moves with
  | stays => exact h
  | powersOn => exact powerOn_meets_inv s
  | takes idle => exact takeResponse_keeps_inv idle h
  | faults w code good hcode => exact raiseFault_keeps_inv good hcode h
  | responds good _ ran => exact responded_meets_inv good ran h
  | waits good _ ran stalls short port advanced =>
    exact waiting_meets_inv good ran stalls short port advanced h

end Sys2Proof.Machine

namespace Sys2Proof.Proofs

open Sys2Proof.Machine Sys2Proof.Spec

/-- Settles O46, by the states a step can leave. -/
theorem stepKeepsTheInvariant : Obligations.StepKeepsTheInvariant :=
  fun _ _ h hstep => (Moves.of_step hstep).keeps_inv h

end Sys2Proof.Proofs
end

section
/-!
PROOFS. Non-interference (R42): two states that differ only in registers no command reads before it
writes them run every statement alike.  `Twin p` is the relation kept along a command's body: the
part p of the state, which grows to TMP, FAIL or ACC where the body writes them, is the same too.
-/

namespace Sys2Proof.Machine

/-! ## States that differ only in unread registers -/

section
variable {s s' : State}

theorem SameButUnread.exists_eq (h : SameButUnread s s') :
    ∃ slave cmd acc tmp fail, (s.mode = .i2c → slave = s.slave) ∧
      s' = { s with slave := slave, cmd := cmd, acc := acc, tmp := tmp, fail := fail } :=
  ⟨_, _, _, _, _, h.1, h.2⟩

theorem SameButUnread.refl (s : State) : SameButUnread s s := ⟨fun _ => rfl, rfl⟩

theorem SameButUnread.mode (h : SameButUnread s s') : s'.mode = s.mode := by rw [h.2]

theorem SameButUnread.cfg (h : SameButUnread s s') : s'.cfg = s.cfg := by rw [h.2]

theorem SameButUnread.offered (h : SameButUnread s s') : offered s' = offered s := by rw [h.2]; rfl

theorem SameButUnread.takeResponse (h : SameButUnread s s') :
    SameButUnread (takeResponse s) (takeResponse s') := by
  obtain ⟨slave, cmd, acc, tmp, fail, hslave, rfl⟩ := h.exists_eq
  exact ⟨hslave, rfl⟩

theorem SameButUnread.powerOn (h : SameButUnread s s') : powerOn s' = powerOn s := by rw [h.2]; rfl

theorem SameButUnread.accept (h : SameButUnread s s') (w : CmdWord) :
    SameButUnread (accept w s) (accept w s') := by
  obtain ⟨slave, cmd, acc, tmp, fail, hslave, rfl⟩ := h.exists_eq
  exact ⟨hslave, rfl⟩

/-- The fault entry reads CMD, which the acceptance of the command wrote (R167). -/
theorem SameButUnread.raiseFault (h : SameButUnread s s') (hcmd : s'.cmd = s.cmd)
    (code : FaultCode) : SameButUnread (raiseFault code s) (raiseFault code s') := by
  obtain ⟨slave, cmd, acc, tmp, fail, hslave, rfl⟩ := h.exists_eq
  cases hcmd
  exact ⟨hslave, rfl⟩

theorem SameButUnread.responded (h : SameButUnread s s') (kind : RspKind) (data : Word32) :
    SameButUnread (responded kind data s) (responded kind data s') := by
  obtain ⟨slave, cmd, acc, tmp, fail, hslave, rfl⟩ := h.exists_eq
  exact ⟨hslave, rfl⟩

theorem SameButUnread.complete (h : SameButUnread s s') (a : BusAction) :
    SameButUnread (complete a s) (complete a s') := by
  obtain ⟨slave, cmd, acc, tmp, fail, hslave, rfl⟩ := h.exists_eq
  cases a <;> exact ⟨hslave, rfl⟩

theorem SameButUnread.withPort (h : SameButUnread s s') (p : Option BusAction) :
    SameButUnread { s with port := p } { s' with port := p } := by
  obtain ⟨slave, cmd, acc, tmp, fail, hslave, rfl⟩ := h.exists_eq
  exact ⟨hslave, rfl⟩

/-- The registers the relation leaves open may be written to anything. -/
theorem SameButUnread.write (h : SameButUnread s s') (acc acc' : Word32) (tmp tmp' : Byte)
    (fail fail' : Bool) :
    SameButUnread { s with acc := acc, tmp := tmp, fail := fail }
      { s' with acc := acc', tmp := tmp', fail := fail' } := by
  obtain ⟨slave, cmd, _, _, _, hslave, rfl⟩ := h.exists_eq
  exact ⟨hslave, rfl⟩

end

/-! ## Flows that run alike -/

/-- Both run on, in states related by R, or both wait, in states that differ in unread registers. -/
def Flow.Alike (R : State → State → Prop) : Flow → Flow → Prop
  | .running t, .running t' => R t t'
  | .waiting t, .waiting t' => SameButUnread t t'
  | _, _ => False

theorem Flow.Alike.andThen {R Q : State → State → Prop} {m m' : Flow} {g g' : State → Flow}
    (h : Flow.Alike R m m') (hg : ∀ t t', R t t' → Flow.Alike Q (g t) (g' t')) :
    Flow.Alike Q (m.andThen g) (m'.andThen g') := by
  cases m <;> cases m'
  · exact hg _ _ h
  · exact h.elim
  · exact h.elim
  · exact h

theorem Flow.Alike.state {m m' : Flow} (h : Flow.Alike SameButUnread m m') :
    SameButUnread m.state m'.state := by
  cases m <;> cases m'
  · exact h
  · exact h.elim
  · exact h.elim
  · exact h

/-- Two states on an initialised bus that differ only in unread registers, and agree on the part p
of the state. -/
structure Twin {α : Type} (p : State → α) (s s' : State) : Prop where
  same : SameButUnread s s'
  initialised : s.mode ≠ .uninit
  agree : p s' = p s

/-- TMP and the part p of the state. -/
def tmpAnd {α : Type} (p : State → α) (s : State) : Byte × α := (s.tmp, p s)

/-- The part of the state that is nothing at all. -/
def noPart (_ : State) : Unit := ()

theorem offRead_noPart : OffRead noPart where
  completes := fun _ _ _ => rfl
  waits := fun _ _ => rfl
  reads := fun _ _ _ _ => rfl

theorem OffRead.tmpAnd {α : Type} {p : State → α} (h : OffRead p) : OffBus (tmpAnd p) where
  completes := fun a s ha => Prod.ext (offBus_tmp.completes a s ha) (h.completes a s ha)
  waits := fun a s => Prod.ext rfl (h.waits a s)

section
variable {α : Type} {p : State → α} {s s' : State}

theorem Twin.tmp (h : Twin (tmpAnd p) s s') : s'.tmp = s.tmp := congrArg Prod.fst h.agree

theorem Twin.rest (h : Twin (tmpAnd p) s s') : Twin p s s' :=
  ⟨h.same, h.initialised, congrArg Prod.snd h.agree⟩

theorem Twin.forget (h : Twin p s s') : Twin noPart s s' := ⟨h.same, h.initialised, rfl⟩

theorem Twin.slave (h : Twin p s s') (hm : s.mode = .i2c) : s'.slave = s.slave := h.same.1 hm

/-! ## The shared operations -/

theorem perform_alike {a : BusAction} (hp : ∀ t, p (complete a t) = p t) (h : Twin p s s') :
    Flow.Alike (Twin p) (perform a s) (perform a s') := by
  have hstall : s'.completes 1 = s.completes 1 := by rw [h.same.2]; rfl
  have hmode : (complete a s).mode = s.mode := by cases a <;> rfl
  unfold perform
  rw [hstall]
  split
  · exact ⟨h.same.complete a, hmode ▸ h.initialised, by rw [hp, hp, h.agree]⟩
  · exact h.same.withPort _

theorem OffBus.perform_alike (off : OffBus p) {a : BusAction} (ha : a ≠ .intRead)
    (h : Twin p s s') : Flow.Alike (Twin p) (Machine.perform a s) (Machine.perform a s') :=
  Machine.perform_alike (fun t => off.completes a t ha) h

/-- A byte read writes the same byte to TMP in both states (R47). -/
theorem readByte_alike (off : OffRead p) {a : BusAction} (ha : a ≠ .intRead) (h : Twin p s s') :
    Flow.Alike (Twin (tmpAnd p)) (readByte a s) (readByte a s') := by
  have hbyte : s'.byteAt 0 = s.byteAt 0 := by rw [h.same.2]; rfl
  have hstall : s'.completes 1 = s.completes 1 := by rw [h.same.2]; rfl
  have hmode : (complete a s).mode = s.mode := by cases a <;> rfl
  unfold readByte perform
  rw [hbyte, hstall]
  split
  · refine ⟨(h.same.complete a).write _ _ _ _ _ _, hmode ▸ h.initialised, Prod.ext rfl ?_⟩
    exact (off.reads a s' _ ha).trans (h.agree.trans (off.reads a s _ ha).symm)
  · exact h.same.withPort _

theorem memRead_alike (off : OffRead p) (a : Byte) (h : Twin p s s') :
    Flow.Alike (Twin (tmpAnd p)) (memRead a s) (memRead a s') := by
  unfold memRead
  rw [h.same.mode]
  cases hm : s.mode with
  | uninit => exact absurd hm h.initialised
  | spi =>
    exact (off.perform_alike (by simp) h).andThen fun _ _ h =>
      (off.perform_alike (by simp) h).andThen fun _ _ h =>
      (readByte_alike off (by simp) h).andThen fun _ _ h =>
      (off.tmpAnd.perform_alike (by simp) h).andThen fun _ _ h => h
  | i2c =>
    dsimp only
    rw [h.slave hm]
    exact (off.perform_alike (by simp) h).andThen fun _ _ h =>
      (readByte_alike off (by simp) h).andThen fun _ _ h => h

theorem memWrite_alike (off : OffBus p) (a v : Byte) (h : Twin p s s') :
    Flow.Alike (Twin p) (memWrite a v s) (memWrite a v s') := by
  unfold memWrite
  rw [h.same.mode]
  cases hm : s.mode with
  | uninit => exact absurd hm h.initialised
  | spi =>
    exact (off.perform_alike (by simp) h).andThen fun _ _ h =>
      (off.perform_alike (by simp) h).andThen fun _ _ h =>
      (off.perform_alike (by simp) h).andThen fun _ _ h => h
  | i2c =>
    dsimp only
    rw [h.slave hm]
    exact off.perform_alike (by simp) h

theorem rmw_alike (off : OffRead p) (ar aw : Byte) (f : Byte → Byte) (h : Twin p s s') :
    Flow.Alike (Twin (tmpAnd p)) (rmw ar aw f s) (rmw ar aw f s') :=
  (memRead_alike off ar h).andThen fun t t' h => by
    rw [h.tmp]
    exact memWrite_alike off.tmpAnd _ _ h

theorem respond_alike (kind : RspKind) (data : Word32) (h : Twin p s s') :
    Flow.Alike SameButUnread (respond kind data s) (respond kind data s') :=
  h.same.responded kind data

/-! ## The bodies -/

/-- The body of a command that answers NONE to a read-modify-write (R105). -/
theorem rmwBody_alike (ar aw : Byte) (f : Byte → Byte) (h : Twin noPart s s') :
    Flow.Alike SameButUnread (runAll [rmw ar aw f, respond .none 0#32] s)
      (runAll [rmw ar aw f, respond .none 0#32] s') :=
  (rmw_alike offRead_noPart ar aw f h).andThen fun _ _ h => respond_alike _ _ h

/-- The body of a command that answers the byte it read (R98, R120, R121). -/
theorem readBody_alike (a : Byte) (h : Twin noPart s s') :
    Flow.Alike SameButUnread (runAll [memRead a, respondTmp] s)
      (runAll [memRead a, respondTmp] s') :=
  (memRead_alike offRead_noPart a h).andThen fun t t' h => by
    rw [runAll_cons, runAll_cons, respondTmp, respondTmp, h.tmp]
    exact respond_alike _ _ h

theorem expectTmp_alike (v : Byte) (h : Twin (tmpAnd State.fail) s s') :
    Flow.Alike (Twin State.fail) (expectTmp v s) (expectTmp v s') := by
  have hfail : s'.fail = s.fail := h.rest.agree
  unfold expectTmp
  rw [h.tmp, hfail]
  exact ⟨h.same.write _ _ _ _ _ _, h.initialised, rfl⟩

theorem writeAndCheck_alike (a v : Byte) (h : Twin State.fail s s') :
    Flow.Alike (Twin State.fail) (writeAndCheck a v s) (writeAndCheck a v s') :=
  (memWrite_alike offRead_fail.toOffBus a v h).andThen fun _ _ h =>
    (memRead_alike offRead_fail a h).andThen fun _ _ h => expectTmp_alike v h

/-- DEFAULT_CONFIG clears FAIL before its first check reads it (R123). -/
theorem clearFail_alike (h : Twin noPart s s') :
    Flow.Alike (Twin State.fail) (clearFail s) (clearFail s') :=
  ⟨h.same.write _ _ _ _ _ _, h.initialised, rfl⟩

theorem defaultConfigBody_alike (a1 a2 a3 a4 : Byte) (v1 v2 v3 v4 : Byte)
    (h : Twin noPart s s') :
    Flow.Alike SameButUnread
      (runAll [clearFail, writeAndCheck a1 v1, writeAndCheck a2 v2, writeAndCheck a3 v3,
        memRead a4, expectTmp v4, respondNotFail] s)
      (runAll [clearFail, writeAndCheck a1 v1, writeAndCheck a2 v2, writeAndCheck a3 v3,
        memRead a4, expectTmp v4, respondNotFail] s') :=
  (clearFail_alike h).andThen fun _ _ h =>
    (writeAndCheck_alike a1 v1 h).andThen fun _ _ h =>
    (writeAndCheck_alike a2 v2 h).andThen fun _ _ h =>
    (writeAndCheck_alike a3 v3 h).andThen fun _ _ h =>
    (memRead_alike offRead_fail a4 h).andThen fun _ _ h =>
    (expectTmp_alike v4 h).andThen fun t t' h => by
      have hfail : t'.fail = t.fail := h.agree
      rw [runAll_cons, runAll_cons, respondNotFail, respondNotFail, hfail]
      exact respond_alike _ _ h

theorem setAcc_alike (raw : Word32) (h : Twin p s s') :
    Flow.Alike (Twin State.acc) (setAcc raw s) (setAcc raw s') :=
  ⟨h.same.write _ _ _ _ _ _, h.initialised, rfl⟩

theorem pressureBody_alike (h : Twin noPart s s') :
    Flow.Alike SameButUnread (pressureBody s) (pressureBody s') := by
  unfold pressureBody
  rw [h.same.cfg]
  exact (memRead_alike offRead_noPart _ h).andThen fun t2 t2' h2 =>
    (memRead_alike offRead_noPart _ h2.forget).andThen fun t1 t1' h1 =>
    (memRead_alike offRead_noPart _ h1.forget).andThen fun t0 t0' h0 => by
      rw [h2.tmp, h1.tmp, h0.tmp]
      refine (setAcc_alike _ h0).andThen fun t t' h => ?_
      have hacc : t'.acc = t.acc := h.agree
      rw [runAll_cons, runAll_cons, respondPressure, respondPressure, hacc]
      exact respond_alike _ _ h

theorem temperatureBody_alike (h : Twin noPart s s') :
    Flow.Alike SameButUnread (temperatureBody s) (temperatureBody s') := by
  unfold temperatureBody
  rw [h.same.cfg]
  exact (memRead_alike offRead_noPart _ h).andThen fun t1 t1' h1 =>
    (memRead_alike offRead_noPart _ h1.forget).andThen fun t0 t0' h0 => by
      rw [h1.tmp, h0.tmp]
      refine (setAcc_alike _ h0).andThen fun t t' h => ?_
      have hacc : t'.acc = t.acc := h.agree
      rw [runAll_cons, runAll_cons, respondTemperature, respondTemperature, hacc, h.same.cfg]
      exact respond_alike _ _ h

theorem intReadBody_alike (h : Twin noPart s s') :
    Flow.Alike SameButUnread (intReadBody s) (intReadBody s') := by
  have hlevel : s'.levelAt 0 = s.levelAt 0 := by rw [h.same.2]; rfl
  unfold intReadBody
  rw [hlevel]
  exact (perform_alike (fun _ => rfl) h).andThen fun _ _ h => respond_alike _ _ h

/-- INIT_SPI leaves the bus initialised, whatever SLAVE holds (R22, R96). -/
theorem initSpiBody_alike (h : SameButUnread s s') :
    Flow.Alike SameButUnread (runAll [bindSpi, perform (.csSet .high), respond .none 0#32] s)
      (runAll [bindSpi, perform (.csSet .high), respond .none 0#32] s') := by
  have bound : Twin noPart { s with mode := .spi } { s' with mode := .spi } := by
    obtain ⟨slave, cmd, acc, tmp, fail, -, rfl⟩ := h.exists_eq
    exact ⟨⟨by simp, rfl⟩, by simp, rfl⟩
  exact (perform_alike (fun _ => rfl) bound).andThen fun _ _ h => respond_alike _ _ h

/-- INIT_I2C writes SLAVE before MODE becomes I2C (R97). -/
theorem initI2cBody_alike (sa : Byte) (h : SameButUnread s s') :
    Flow.Alike SameButUnread (runAll [bindI2c sa, respond .none 0#32] s)
      (runAll [bindI2c sa, respond .none 0#32] s') := by
  have bound : Twin noPart { s with slave := sa, mode := .i2c }
      { s' with slave := sa, mode := .i2c } := by
    obtain ⟨slave, cmd, acc, tmp, fail, -, rfl⟩ := h.exists_eq
    exact ⟨⟨fun _ => rfl, rfl⟩, by simp, rfl⟩
  exact respond_alike _ _ bound

/-! ## Commands and steps -/

theorem runCommand_alike {i : Instr} {body body' : State → Flow} (h : SameButUnread s s')
    (hcmd : s'.cmd = s.cmd)
    (hbody : check i s.mode = none → Flow.Alike SameButUnread (body s) (body' s')) :
    ∃ t t', runCommand i body s = .next t ∧ runCommand i body' s' = .next t' ∧
      SameButUnread t t' := by
  cases hc : check i s.mode with
  | some code =>
    exact ⟨_, _, runCommand_fault hc, runCommand_fault (h.mode ▸ hc), h.raiseFault hcmd code⟩
  | none => exact ⟨_, _, runCommand_ok hc, runCommand_ok (h.mode ▸ hc), (hbody hc).state⟩

/-- Every command runs alike from two states that differ only in unread registers. -/
theorem exec_alike (i : Instr) (h : SameButUnread s s') (hcmd : s'.cmd = s.cmd) :
    ∃ t t', exec i s = .next t ∧ exec i s' = .next t' ∧ SameButUnread t t' := by
  have twin (hi : isInit i = false) (pass : check i s.mode = none) : Twin noPart s s' :=
    ⟨h, mode_of_check pass hi, rfl⟩
  obtain ⟨slave, cmd, acc, tmp, fail, -, rfl⟩ := h.exists_eq
  cases i with
  | initSpi => exact runCommand_alike h hcmd fun _ => initSpiBody_alike h
  | initI2c sa => exact runCommand_alike h hcmd fun _ => initI2cBody_alike sa h
  | readReg => exact runCommand_alike h hcmd fun pass => readBody_alike _ (twin rfl pass)
  | getConfig => exact runCommand_alike h hcmd fun pass => readBody_alike _ (twin rfl pass)
  | readId => exact runCommand_alike h hcmd fun pass => readBody_alike _ (twin rfl pass)
  | writeReg a v =>
    exact runCommand_alike h hcmd fun pass =>
      (memWrite_alike offRead_noPart.toOffBus a v (twin rfl pass)).andThen fun _ _ h =>
        respond_alike _ _ h
  | getIntState => exact runCommand_alike h hcmd fun pass => intReadBody_alike (twin rfl pass)
  | defaultConfig =>
    exact runCommand_alike h hcmd fun pass =>
      defaultConfigBody_alike _ _ _ _ _ _ _ _ (twin rfl pass)
  | getPressure => exact runCommand_alike h hcmd fun pass => pressureBody_alike (twin rfl pass)
  | getTemperature =>
    exact runCommand_alike h hcmd fun pass => temperatureBody_alike (twin rfl pass)
  | _ => exact runCommand_alike h hcmd fun pass => rmwBody_alike _ _ _ (twin rfl pass)

/-- Every step runs alike from two states that differ only in unread registers: acceptance writes
CMD before the fault entry reads it. -/
theorem step_alike (h : SameButUnread s s') :
    ∃ t t', step s = .next t ∧ step s' = .next t' ∧ SameButUnread t t' := by
  unfold step
  rw [h.offered]
  cases offered s with
  | nothing => exact ⟨s, s', rfl, rfl, h⟩
  | powerOn => exact ⟨_, _, rfl, rfl, h.powerOn ▸ .refl _⟩
  | takeResponse => exact ⟨_, _, rfl, rfl, h.takeResponse⟩
  | command w =>
    dsimp only
    cases decode w with
    | ok i => exact exec_alike i (h.accept w) rfl
    | error r => exact ⟨_, _, rfl, rfl, (h.accept w).raiseFault rfl .illegalOpcode⟩

end

end Sys2Proof.Machine

namespace Sys2Proof.Proofs

open Sys2Proof.Machine

/-- Settles O50: the two states run every statement alike. -/
theorem unspecifiedRegistersCannotBeObserved :
    Obligations.UnspecifiedRegistersCannotBeObserved := by
  intro s s' t h hstep
  obtain ⟨u, t', hu, ht', hsame⟩ := step_alike h
  cases hu.symm.trans hstep
  exact ⟨t', ht', hsame⟩

end Sys2Proof.Proofs
end

section
/-!
PROOFS. Rules of a single step: the wait for an action that never completes (R49), the binding of
the bus (R21, R33), and the response taken (R30).
-/

namespace Sys2Proof.Machine

open Sys2Proof.Spec

section
variable {i : Instr} {w : CmdWord} {s s0 t u : State} {m : Flow} {evs es : List Event}
  {kind : RspKind} {data : Word32}

/-- The bus actions of a command are counted in its trace (R69). -/
theorem Command.countBus_take (ran : Command i s s0 t m evs kind data) {k : Nat}
    (h : k < evs.length) : countBus (evs.take k) = k := by
  rw [countBus_of_onBus fun e he => ran.onBus e (List.mem_of_mem_take he),
    List.length_take_of_le h.le]

/-- On an initialised bus a command leaves MODE and SLAVE as they are (R21). -/
theorem Command.keeps_binding (ran : Command i (accept w s) s0 t m evs kind data)
    (pass : check i s.mode = none) (hm : s.mode ≠ .uninit) (advanced : Advanced s0 u es) :
    u.mode = s.mode ∧ u.slave = s.slave := by
  obtain rfl | huninit := ran.binds_once pass
  · exact ⟨advanced.agree.mode, advanced.agree.slave⟩
  · exact absurd huninit hm

/-- Once MODE is not UNINIT every step but a power-on keeps MODE and SLAVE (R21, R33). -/
theorem Moves.keeps_binding (moves : Moves s t) (hm : s.mode ≠ .uninit)
    (hp : ∀ rest, s.inputs ≠ .powerOn :: rest) : t.mode = s.mode ∧ t.slave = s.slave := by
  cases moves with
  | stays => exact ⟨rfl, rfl⟩
  | powersOn rest head => exact absurd head (hp rest)
  | takes => exact ⟨rfl, rfl⟩
  | faults => exact ⟨rfl, rfl⟩
  | responds _ pass ran =>
    have hbody := ran.keeps_binding pass hm ran.does.advanced
    exact hbody
  | waits _ pass ran _ _ _ advanced => exact ran.keeps_binding pass hm advanced

end

end Sys2Proof.Machine

namespace Sys2Proof.Proofs

open Sys2Proof.Machine

/-- Settles O14: the command stands after its k completed actions, and a busy machine takes
nothing. -/
theorem uncompletedActionWaitsForever : Obligations.UncompletedActionWaitsForever := by
  refine ⟨?_, fun s hb hp => step_of_busy hb hp⟩
  intro s w rest i k hb hf hin hd hpass hk hlt
  obtain ⟨s0, t, m, evs, kind, data, ran⟩ := command_of_passes (s := accept w s) hpass
  have short : k < evs.length := ran.count ▸ hlt
  obtain ⟨u, hexec, hport, advanced⟩ := ran.waits hk short
  obtain ⟨a, ha⟩ := Option.ne_none_iff_exists'.mp hport
  have hlen : (evs.take k).length = k := List.length_take_of_le short.le
  have hcount := ran.countBus_take short
  obtain ⟨mode, slave, rfl⟩ := ran.bound
  obtain ⟨agree, htrace, hstep, hstall⟩ := advanced
  refine ⟨u, a, (step_of_command ⟨hb, hf⟩ hin hd).trans hexec, agree.busy, agree.cmd, ha, ?_, ?_,
    agree.rspValid, agree.rspKind, agree.rspData, agree.fault.trans hf, ?_⟩
  · rw [hstep, hlen]
    simp
  · rw [htrace, countBus_append, hcount]
    simp [countBus_append, countBus]
  · rw [hstall, hlen]
    simp [hk]

/-- Settles O44: only an INIT binds the bus, and it passes its check only with MODE = UNINIT. -/
theorem busBindingIsWriteOnce : Obligations.BusBindingIsWriteOnce :=
  fun _ _ hm hp hstep => (Moves.of_step hstep).keeps_binding hm hp

/-- Settles O10. -/
theorem takingTheResponseClearsRspValid : Obligations.TakingTheResponseClearsRspValid := by
  intro s rest hb hin
  rw [step_of_takeResponse hb hin, takeResponse, hin, List.tail_cons]

/-- Settles O9: the reset state is written out, register by register. -/
theorem resetStateHoldsTheResetValues : Obligations.ResetStateHoldsTheResetValues :=
  ⟨rfl, rfl, rfl, rfl, rfl, rfl, rfl, rfl, rfl, rfl, rfl, rfl⟩

end Sys2Proof.Proofs
end

section
/-!
PROOFS. Runs from reset (R43, R50, R70, R71): the framing and the transport of the trace are kept by
every step as the state invariant is, and all three hold where a run starts.
-/

namespace Sys2Proof.Machine

open Sys2Proof.Spec

/-! ## Framing (R70, R71) -/

theorem framingOf_append (es fs : List Event) :
    framingOf (es ++ fs) = fs.foldl Framing.next (framingOf es) :=
  List.foldl_append

/-- A trace at rest is one that holds a whole number of frames. -/
theorem framingHolds_of_atRest {s : State} (h : framingOf s.trace = .atRest) : FramingHolds s :=
  ⟨by simp [h], fun _ => h⟩

section
variable {i : Instr} {w : CmdWord} {s s0 t u : State} {m : Flow} {evs es : List Event}
  {kind : RspKind} {data : Word32}

/-- The bus actions of an accepted command follow its Accept (R95). -/
theorem Command.trace (ran : Command i (accept w s) s0 t m evs kind data)
    (advanced : Advanced s0 u es) : u.trace = s.trace ++ .accept w :: es := by
  obtain ⟨mode, slave, rfl⟩ := ran.bound
  rw [advanced.trace]
  simp

/-- The framing inside an accepted command is that of its bus actions so far. -/
theorem Command.framing (ran : Command i (accept w s) s0 t m evs kind data)
    (h : framingOf s.trace = .atRest) (advanced : Advanced s0 u es) :
    framingOf u.trace = es.foldl Framing.next .atRest := by
  rw [ran.trace advanced, framingOf_append, h]
  rfl

theorem responded_keeps_framing (ran : Command i (accept w s) s0 t m evs kind data)
    (h : framingOf s.trace = .atRest) : FramingHolds (responded kind data t) := by
  apply framingHolds_of_atRest
  rw [responded_trace, framingOf_append, ran.framing h ran.does.advanced, ran.clean.1]
  rfl

theorem waiting_keeps_framing (ran : Command i (accept w s) s0 t m evs kind data)
    (h : framingOf s.trace = .atRest) {k : Nat} (advanced : Advanced s0 u (evs.take k)) :
    FramingHolds u := by
  refine ⟨by rw [ran.framing h advanced]; exact ran.clean.2 k, fun hb => ?_⟩
  obtain ⟨mode, slave, rfl⟩ := ran.bound
  have hbusy : u.busy = true := advanced.agree.busy
  simp [hbusy] at hb

theorem raiseFault_keeps_framing (h : framingOf s.trace = .atRest) (code : FaultCode) :
    FramingHolds (raiseFault code (accept w s)) := by
  apply framingHolds_of_atRest
  rw [raiseFault_trace, accept_trace, framingOf_append, framingOf_append, h]
  rfl

/-- R70, R71: every state a step can leave keeps the framing. -/
theorem Moves.keeps_framing (moves : Moves s t) (h : FramingHolds s) : FramingHolds t := by
  cases moves with
  | stays => exact h
  | powersOn => exact framingHolds_of_atRest rfl
  | takes => exact h
  | faults w code good => exact raiseFault_keeps_framing (h.2 good.1) code
  | responds good _ ran => exact responded_keeps_framing ran (h.2 good.1)
  | waits good _ ran _ _ _ advanced => exact waiting_keeps_framing ran (h.2 good.1) advanced

/-! ## Transport (R50) -/

/-- What an uninitialised PCBS may record, no binding of the bus forbids. -/
theorem Event.allowed_of_uninit {mode : Mode} {sa slave : Byte} {e : Event}
    (h : e.allowed .uninit sa) : e.allowed mode slave := by
  cases e with
  | bus a v => cases a <;> simp [Event.allowed, BusAction.allowed] at h
  | _ => trivial

theorem Event.onBus.allowed {mode : Mode} {slave : Byte} {e : Event} (h : e.onBus mode slave) :
    e.allowed mode slave := by
  obtain ⟨a, v, rfl, ha⟩ := h
  exact ha

/-- The events before a command keep to the bus the command runs on, since it binds a bus only where
none was bound. -/
theorem Command.allows_past (ran : Command i (accept w s) s0 t m evs kind data)
    (pass : check i s.mode = none) (h : TransportHolds s) :
    ∀ e ∈ s.trace, e.allowed s0.mode s0.slave := by
  intro e he
  obtain rfl | huninit := ran.binds_once pass
  · exact h e he
  · have hm : s.mode = .uninit := huninit
    exact Event.allowed_of_uninit (hm ▸ h e he)

/-- Wherever an accepted command stands, its trace keeps to its bus. -/
theorem Command.keeps_transport (ran : Command i (accept w s) s0 t m evs kind data)
    (pass : check i s.mode = none) (h : TransportHolds s) (advanced : Advanced s0 u es)
    (hsub : ∀ e ∈ es, e ∈ evs) : TransportHolds u := by
  intro e he
  rw [ran.trace advanced, List.mem_append, List.mem_cons] at he
  rw [advanced.agree.mode, advanced.agree.slave]
  obtain hpast | rfl | hnew := he
  · exact ran.allows_past pass h e hpast
  · trivial
  · exact (ran.onBus e (hsub e hnew)).allowed

/-- An event that is no bus action keeps to every transport. -/
theorem transportHolds_of_append {e : Event} (h : TransportHolds s)
    (he : e.allowed s.mode s.slave) (hmode : t.mode = s.mode) (hslave : t.slave = s.slave)
    (htrace : t.trace = s.trace ++ [e]) : TransportHolds t := by
  intro f hf
  rw [htrace, List.mem_append, List.mem_singleton] at hf
  rw [hmode, hslave]
  obtain hf | rfl := hf
  · exact h f hf
  · exact he

/-- R50: every state a step can leave keeps to the transport. -/
theorem Moves.keeps_transport (moves : Moves s t) (h : TransportHolds s) : TransportHolds t := by
  cases moves with
  | stays => exact h
  | powersOn => exact fun e he => by simp at he
  | takes => exact h
  | faults w code =>
    have haccept : TransportHolds (accept w s) :=
      transportHolds_of_append h (e := .accept w) trivial rfl rfl rfl
    exact transportHolds_of_append haccept (e := .fault code w) trivial rfl rfl rfl
  | responds _ pass ran =>
    have hbody := ran.keeps_transport pass h ran.does.advanced fun _ he => he
    exact transportHolds_of_append hbody (e := .respond _ _) trivial rfl rfl rfl
  | waits _ pass ran _ _ _ advanced =>
    exact ran.keeps_transport pass h advanced fun _ he => List.mem_of_mem_take he

/-! ## Runs -/

/-- The three invariants of PCBS. -/
structure Invariants (s : State) : Prop where
  state : StateInv s
  framing : FramingHolds s
  transport : TransportHolds s

theorem Moves.keeps_invariants (moves : Moves s t) (h : Invariants s) : Invariants t :=
  ⟨moves.keeps_inv h.state, moves.keeps_framing h.framing, moves.keeps_transport h.transport⟩

end

/-- A power-on leaves the invariants, from any state. -/
theorem powerOn_meets_invariants (s : State) : Invariants (powerOn s) :=
  ⟨powerOn_meets_inv s, framingHolds_of_atRest rfl, fun e he => by simp at he⟩

theorem run_of_step {s t : State} (h : step s = .next t) (k : Nat) :
    Host.Core.run Sys2Proof.core (k + 1) s = Host.Core.run Sys2Proof.core k t := by
  have hcore : Sys2Proof.core.step s = .next t := h
  simp only [Host.Core.run, hcore]

/-- What holds in s and is kept by every step holds after any number of steps, none of which
stops. -/
theorem run_keeps {P : State → Prop} (hstep : ∀ {s t}, Moves s t → P s → P t) (k : Nat) (s : State)
    (h : P s) : ∃ t, Host.Core.run Sys2Proof.core k s = .next t ∧ P t := by
  induction k generalizing s with
  | zero => exact ⟨s, rfl, h⟩
  | succ k ih =>
    obtain ⟨u, hu, moves⟩ := step_moves s
    obtain ⟨t, ht, hP⟩ := ih u (hstep moves h)
    exact ⟨t, (run_of_step hu k).trans ht, hP⟩

end Sys2Proof.Machine

namespace Sys2Proof.Proofs

open Sys2Proof.Machine Sys2Proof.Spec

/-- Settles O45: the reset state is the state its own power-on leaves. -/
theorem resetMeetsTheInvariants : Obligations.ResetMeetsTheInvariants := by
  have h : Invariants State.reset := powerOn_meets_invariants State.reset
  exact ⟨h.state, h.framing, h.transport⟩

/-- Settles O49: a start of a run is a state a power-on leaves, and every step keeps the
invariants. -/
theorem everyRunFromResetKeepsTheInvariants :
    Obligations.EveryRunFromResetKeepsTheInvariants := by
  intro cfg inputs bytes levels draws stall k
  have start : Invariants (startOfRun cfg inputs bytes levels draws stall) :=
    powerOn_meets_invariants (startOfRun cfg (.powerOn :: inputs) bytes levels draws stall)
  obtain ⟨t, ht, h⟩ := run_keeps Moves.keeps_invariants k _ start
  exact ⟨t, ht, h.state, h.framing, h.transport⟩

end Sys2Proof.Proofs
end

section
/-!
PROOFS. The bus in a single step (R50, R70, R71): each state a step can leave keeps the framing and
the transport of the trace.
-/

namespace Sys2Proof.Proofs

open Sys2Proof.Machine Sys2Proof.Spec

/-- Settles O47: a command's bus actions are whole frames, cut short only by a wait. -/
theorem stepKeepsTheFraming : Obligations.StepKeepsTheFraming :=
  fun _ _ h hstep => (Moves.of_step hstep).keeps_framing h

/-- Settles O48: a command's bus actions keep to the bus it runs on, and only a command that finds
no bus bound, so no action in the trace, binds one. -/
theorem stepKeepsToItsTransport : Obligations.StepKeepsToItsTransport :=
  fun _ _ h hstep => (Moves.of_step hstep).keeps_transport h

end Sys2Proof.Proofs
end

section
/-!
PROOFS. The encoding (R75 to R86): a word decodes to a command exactly when the command encodes to
the word's read bits, and a word decodes to no command exactly when its OPC is no opcode.
-/

namespace Sys2Proof

open Sys2Proof.Spec

/-! ## The fields of a word (R75) -/

@[simp] theorem opcOf_and (v w : CmdWord) : opcOf (v &&& w) = opcOf v &&& opcOf w :=
  BitVec.extractLsb'_and

@[simp] theorem op1Of_and (v w : CmdWord) : op1Of (v &&& w) = op1Of v &&& op1Of w :=
  BitVec.extractLsb'_and

@[simp] theorem op2Of_and (v w : CmdWord) : op2Of (v &&& w) = op2Of v &&& op2Of w :=
  BitVec.extractLsb'_and

/-- Words with the same fields are the same word. -/
theorem CmdWord.eq_iff_fields {v w : CmdWord} :
    v = w ↔ opcOf v = opcOf w ∧ op1Of v = op1Of w ∧ op2Of v = op2Of w := by
  refine ⟨by rintro rfl; simp, fun ⟨hopc, h1, h2⟩ => ?_⟩
  rw [← cmdWord_fields v, hopc, h1, h2, cmdWord_fields]

/-- `BitVec.and_allOnes` in the spelling of the masks. -/
@[simp] theorem Byte.and_ones (b : Byte) : b &&& 0xFF#8 = b := BitVec.and_allOnes

/-! ## The bits a command reads (R77) -/

/-- The operand bytes a command reads, all ones, and the ignored ones, 0 (R77). -/
def Instr.operandMask : Instr → Byte × Byte
  | .writeReg _ _ => (0xFF#8, 0xFF#8)
  | .initI2c _ | .readReg _ | .setOdr _ | .spiIfMode _ | .rebootMode _ => (0xFF#8, 0#8)
  | .setIntCfg _ | .setConfig _ => (0xFF#8, 0#8)
  | _ => (0#8, 0#8)

theorem readBits_eq_cmdWord (i : Instr) :
    readBits i = cmdWord 0xFF#8 i.operandMask.1 i.operandMask.2 := by
  have both : 0xFFFFFF#24 = cmdWord 0xFF#8 0xFF#8 0xFF#8 := by decide
  have one : 0xFFFF00#24 = cmdWord 0xFF#8 0xFF#8 0#8 := by decide
  have neither : 0xFF0000#24 = cmdWord 0xFF#8 0#8 0#8 := by decide
  cases i <;> simp only [readBits, Instr.operandMask, both, one, neither]

/-- A command encodes to the read bits of a word exactly when it has the word's opcode and the
operand bytes it reads there. -/
theorem encode_eq_and_readBits_iff (i : Instr) (w : CmdWord) :
    encode i = w &&& readBits i ↔
      i.opcode = opcOf w ∧ i.operands.1 = op1Of w &&& i.operandMask.1 ∧
        i.operands.2 = op2Of w &&& i.operandMask.2 := by
  rw [CmdWord.eq_iff_fields, readBits_eq_cmdWord]
  simp [encode, opcOf_cmdWord, op1Of_cmdWord, op2Of_cmdWord]

/-! ## The decoder (R78, R80, R82) -/

/-- The decoder answers a command that encodes to the word's read bits, or it rejects an OPC that is
no opcode. -/
theorem decode_cases (w : CmdWord) :
    (∃ i, decode w = .ok i ∧ encode i = w &&& readBits i) ∨
      (decode w = .error (.illegalOpcode (opcOf w)) ∧ opcOf w ∉ opcodes) := by
  unfold decode
  split
  case h_25 =>
    refine .inr ⟨rfl, ?_⟩
    simp only [opcodes, List.mem_cons, List.not_mem_nil, or_false, ← BitVec.toNat_inj, not_or]
    and_intros <;> assumption
  all_goals
    rename_i hopc
    refine .inl ⟨_, rfl, (encode_eq_and_readBits_iff _ w).mpr ⟨?_, ?_, ?_⟩⟩
    · exact BitVec.eq_of_toNat_eq hopc.symm
    · simp [Instr.operands, Instr.operandMask]
    · simp [Instr.operands, Instr.operandMask]

/-- R82, R85: a word decodes to a command exactly when it holds the bits the command reads, as the
command encodes to them. -/
theorem decode_eq_ok_iff {i : Instr} {w : CmdWord} :
    decode w = .ok i ↔ encode i = w &&& readBits i := by
  constructor
  · intro h
    obtain ⟨j, hj, hread⟩ | ⟨hrej, -⟩ := decode_cases w
    · obtain rfl : j = i := Except.ok.inj (hj.symm.trans h)
      exact hread
    · simp [h] at hrej
  · rw [encode_eq_and_readBits_iff]
    rintro ⟨hopc, h1, h2⟩
    unfold decode
    cases i <;> simp_all [← hopc, Instr.opcode, Instr.operands, Instr.operandMask]

/-- An ignored operand assembles as 0 (R77, R85). -/
theorem encode_and_readBits (i : Instr) : encode i &&& readBits i = encode i := by
  refine ((encode_eq_and_readBits_iff i (encode i)).mpr ⟨?_, ?_, ?_⟩).symm
  · simp [encode, opcOf_cmdWord]
  · rw [encode, op1Of_cmdWord]
    cases i <;> simp [Instr.operands, Instr.operandMask]
  · rw [encode, op2Of_cmdWord]
    cases i <;> simp [Instr.operands, Instr.operandMask]

theorem decode_encode (i : Instr) : decode (encode i) = .ok i :=
  decode_eq_ok_iff.mpr (encode_and_readBits i).symm

theorem decode_and_encode_of_encode_eq {i : Instr} {w : CmdWord} (h : encode i = w) :
    decode w = .ok i ∧ encode i = w :=
  ⟨h ▸ decode_encode i, h⟩

theorem opcode_mem_opcodes (i : Instr) : i.opcode ∈ opcodes := by
  cases i <;> simp [Instr.opcode, opcodes]

/-- R80: only an opcode decodes. -/
theorem opcOf_mem_opcodes_of_decode {i : Instr} {w : CmdWord} (h : decode w = .ok i) :
    opcOf w ∈ opcodes := by
  obtain ⟨hopc, -⟩ := (encode_eq_and_readBits_iff i w).mp (decode_eq_ok_iff.mp h)
  exact hopc ▸ opcode_mem_opcodes i

end Sys2Proof

namespace Sys2Proof.Proofs

/-- Settles O3: a command's word holds the bits the command reads. -/
theorem decodeOfEncodeIsTheCommand : Obligations.DecodeOfEncodeIsTheCommand := decode_encode

/-- Settles O4: what a word decodes to encodes to the word's read bits. -/
theorem encodeOfDecodeKeepsTheReadBits : Obligations.EncodeOfDecodeKeepsTheReadBits :=
  fun _ _ => decode_eq_ok_iff.mp

/-- Settles O5: both words hold the bits the command reads. -/
theorem ignoredOperandBitsChangeNothing : Obligations.IgnoredOperandBitsChangeNothing :=
  fun _ _ _ hd hbits => decode_eq_ok_iff.mpr ((decode_eq_ok_iff.mp hd).trans hbits)

/-- Settles O2: each of the decoder's two answers goes with one kind of OPC. -/
theorem legalWordsHaveTheTwentyFourOpcodes : Obligations.LegalWordsHaveTheTwentyFourOpcodes := by
  refine ⟨by decide, rfl, fun opc op1 op2 => ?_⟩
  have answer := decode_cases (cmdWord opc op1 op2)
  rw [opcOf_cmdWord] at answer
  obtain ⟨i, hi, -⟩ | ⟨hrej, hopc⟩ := answer
  · have hmem := opcOf_mem_opcodes_of_decode hi
    rw [opcOf_cmdWord] at hmem
    exact ⟨fun _ => ⟨i, hi⟩, fun hopc => absurd hmem hopc⟩
  · exact ⟨fun hmem => absurd hmem hopc, fun _ => hrej⟩

/-- Settles O1: the seven words are what their commands encode to, and decoding undoes that. -/
theorem encodingExamplesDecodeAndAssemble : Obligations.EncodingExamplesDecodeAndAssemble :=
  ⟨decode_and_encode_of_encode_eq rfl, decode_and_encode_of_encode_eq rfl,
    decode_and_encode_of_encode_eq rfl, decode_and_encode_of_encode_eq rfl,
    decode_and_encode_of_encode_eq rfl, decode_and_encode_of_encode_eq rfl,
    decode_and_encode_of_encode_eq rfl⟩

end Sys2Proof.Proofs
end

section
/-!
PROOFS. The wire frames of a register read and of a register write (R83, R84): the items of the
command's bus actions, its response putting nothing on the wires.
-/

namespace Sys2Proof.Machine

/-! ## The wire items of a frame (R84) -/

theorem wireOf_append_respond (held : Bool) (es : List Event) (kind : RspKind) (data : Word32) :
    wireOf held (es ++ [.respond kind data]) = wireOf held es := by
  induction es generalizing held with
  | nil => rfl
  | cons e es ih => cases e <;> simp [wireOf, ih]

theorem wireOf_readFrame_spi (slave a d : Byte) :
    wireOf false (readFrame .spi slave a d) =
      [.cs .low, .spiOut (a &&& 0xBF#8), .spiIn d, .cs .high] := rfl

theorem wireOf_writeFrame_spi (slave a v : Byte) :
    wireOf false (writeFrame .spi slave a v) =
      [.cs .low, .spiOut (a &&& 0x7F#8), .spiOut v, .cs .high] := rfl

theorem wireOf_readFrame_i2c (slave a d : Byte) :
    wireOf false (readFrame .i2c slave a d) =
      [.start, .slaveWrite slave, .i2cOut a,
        .repeatedStart, .slaveRead slave, .i2cIn d, .stop] := rfl

theorem wireOf_writeFrame_i2c (slave a v : Byte) :
    wireOf false (writeFrame .i2c slave a v) =
      [.start, .slaveWrite slave, .i2cOut a, .i2cOut v, .stop] := rfl

/-! ## The commands -/

/-- In s, the command i appends to the trace what puts `items` on the wires of a bus at rest. -/
def PutsOnWires (i : Instr) (s : State) (items : List WireItem) : Prop :=
  ∃ t seg, exec i s = .next t ∧ t.trace = s.trace ++ seg ∧ wireOf false seg = items

/-- A command whose bus actions complete puts them on the wires. -/
theorem Command.putsOnWires {i : Instr} {s t : State} {m : Flow} {evs : List Event}
    {kind : RspKind} {data : Word32} (ran : Command i s s t m evs kind data)
    (hc : s.completes evs.length = true) : PutsOnWires i s (wireOf false evs) := by
  refine ⟨_, evs ++ [.respond kind data], ran.responds hc, ?_, wireOf_append_respond _ _ _ _⟩
  rw [responded_trace, ran.does.advanced.trace, List.append_assoc]

theorem readReg_putsOnWires (a : Byte) {s : State} (hm : s.mode ≠ .uninit)
    (hc : s.completes (readActions s.mode) = true) :
    PutsOnWires (.readReg a) s (wireOf false (readFrame s.mode s.slave a (s.byteAt 0))) := by
  have pass : check (.readReg a) s.mode = none := by simp [check, isInit, badOperand, hm]
  have ran := read_command pass rfl rfl (by simp [busActions, registerReads, registerWrites])
  exact ran.putsOnWires (by rwa [readFrame_length])

theorem writeReg_putsOnWires (a v : Byte) {s : State} (hm : s.mode ≠ .uninit)
    (hc : s.completes (writeActions s.mode) = true) :
    PutsOnWires (.writeReg a v) s (wireOf false (writeFrame s.mode s.slave a v)) := by
  have pass : check (.writeReg a v) s.mode = none := by simp [check, isInit, badOperand, hm]
  exact (write_command pass).putsOnWires (by rwa [writeFrame_length])

end Sys2Proof.Machine

namespace Sys2Proof.Proofs

open Sys2Proof.Machine

/-- Settles O32: in each transport, the items of the read frame and of the write frame. -/
theorem wireFramesMatchTheTable : Obligations.WireFramesMatchTheTable := by
  intro a v s
  have read := readReg_putsOnWires a (s := s)
  have write := writeReg_putsOnWires a v (s := s)
  refine ⟨fun hm => ?_, fun hm => ?_⟩ <;> rw [hm] at read write
  · rw [wireOf_readFrame_spi] at read
    rw [wireOf_writeFrame_spi] at write
    exact ⟨read (by decide), write (by decide)⟩
  · rw [wireOf_readFrame_i2c] at read
    rw [wireOf_writeFrame_i2c] at write
    exact ⟨read (by decide), write (by decide)⟩

end Sys2Proof.Proofs
end

section
/-!
PROOFS. The bus primitives (R95 to R99) as whole next states: the acceptance of a command word, and
what INIT_SPI, INIT_I2C, READ_REG and WRITE_REG leave.  `commandRule_of` says once what makes a
command obey the rule of its opcode, and `responded_moved` what a body of register accesses leaves
with its response posted.
-/

namespace Sys2Proof

/-- A word decodes to the command of its opcode that has the operand bytes it reads (R77, R78). -/
theorem decode_cmdWord {i : Instr} {op1 op2 : Byte}
    (h1 : i.operands.1 = op1 &&& i.operandMask.1 := by simp [Instr.operands, Instr.operandMask])
    (h2 : i.operands.2 = op2 &&& i.operandMask.2 := by simp [Instr.operands, Instr.operandMask]) :
    decode (cmdWord i.opcode op1 op2) = .ok i := by
  rw [decode_eq_ok_iff, encode_eq_and_readBits_iff, opcOf_cmdWord, op1Of_cmdWord, op2Of_cmdWord]
  exact ⟨rfl, h1, h2⟩

end Sys2Proof

namespace Sys2Proof.Machine

open Sys2Proof.Spec

section
variable {i : Instr} {s : State}

/-! ## The checks (R163, R164) -/

theorem check_of_uninit (hi : isInit i = false) : check i .uninit = some .notInitialised := by
  simp [check, hi]

theorem check_of_init {mode : Mode} (hi : isInit i = true) (hm : mode ≠ .uninit) :
    check i mode = some .alreadyInitialised := by
  simp [check, hi, hm]

theorem check_eq_none {mode : Mode} (hi : isInit i = false) (hb : badOperand i = false)
    (hm : mode ≠ .uninit) : check i mode = none := by
  simp [check, hi, hb, hm]

/-- A command that fails its check takes the fault (R167). -/
theorem exec_eq_faulted {code : FaultCode} (h : check i s.mode = some code) :
    exec i s = .next (faulted code s) := by
  obtain ⟨code', hcode, hexec⟩ | ⟨pass, -⟩ := exec_cases i s
  · cases hcode.symm.trans h
    exact hexec
  · simp [h] at pass

/-- Where no bus action is asked for, none can fail to complete. -/
theorem completes_zero (s : State) : s.completes 0 = true :=
  (completes_iff s 0).mpr fun _ _ => Nat.zero_le _

/-! ## Commands that need an INIT first -/

/-- A command obeys the rule of its opcode when its words decode to it, it takes no fault but the
one of an uninitialised PCBS, and it completes as the rule says. -/
theorem commandRule_of {opc : Byte} {ins : Byte → Byte → Instr} {actions : Mode → Nat}
    {result : Byte → Byte → State → State}
    (hdecode : ∀ op1 op2, decode (cmdWord opc op1 op2) = .ok (ins op1 op2))
    (hinit : ∀ op1 op2, isInit (ins op1 op2) = false)
    (hoperand : ∀ op1 op2, badOperand (ins op1 op2) = false)
    (hexec : ∀ op1 op2 s, check (ins op1 op2) s.mode = none →
      s.completes (actions s.mode) = true → exec (ins op1 op2) s = .next (result op1 op2 s)) :
    commandRule opc ins actions result := by
  intro op1 op2
  refine ⟨hdecode op1 op2, fun s hm => ?_, fun s hm hc => ?_⟩
  · exact exec_eq_faulted (hm ▸ check_of_uninit (hinit op1 op2))
  · exact hexec op1 op2 s (check_eq_none (hinit op1 op2) (hoperand op1 op2) hm) hc

/-- The response to a body of register accesses ends the command (R30, R81, R95). -/
theorem responded_moved {frames : List Event} {n : Nat} (h : frames.length = n) (s : State)
    (reads : Nat) (tmp : Byte) (kind : RspKind) (data : Word32) :
    responded kind data (moved s frames reads tmp) =
      { replied s frames reads n kind data with tmp := tmp } := by
  subst h
  rfl

/-- A plain register read answers the byte read (R98, R120, R121). -/
theorem exec_eq_afterReadByte {a : Byte} (pass : check i s.mode = none) (hi : isInit i = false)
    (hexec : exec i s = runCommand i (runAll [memRead a, respondTmp]) s)
    (hn : busActions i s.mode = readActions s.mode)
    (hc : s.completes (readActions s.mode) = true) : exec i s = .next (afterReadByte s a) := by
  have ran := read_command pass hi hexec hn
  rw [ran.responds (by rwa [readFrame_length]), responded_moved (readFrame_length _ _ _ _)]
  rfl

/-- A plain register write leaves TMP (R99). -/
theorem exec_writeReg {a v : Byte} (pass : check (.writeReg a v) s.mode = none)
    (hc : s.completes (writeActions s.mode) = true) :
    exec (.writeReg a v) s =
      .next (replied s (writeFrame s.mode s.slave a v) 0 (writeActions s.mode) .none 0#32) := by
  rw [(write_command pass).responds (by rwa [writeFrame_length]),
    responded_moved (writeFrame_length _ _ _ _)]
  rfl

end

end Sys2Proof.Machine

namespace Sys2Proof.Proofs

open Sys2Proof.Machine

/-- Settles O18: READ_REG's bus actions are one read frame. -/
theorem readRegAnswersTheByteRead : Obligations.ReadRegAnswersTheByteRead :=
  commandRule_of
    (fun op1 _ => decode_cmdWord (i := .readReg op1)) (fun _ _ => rfl) (fun _ _ => rfl)
    (fun _ _ _ pass hc => exec_eq_afterReadByte pass rfl rfl
      (by simp [busActions, registerReads, registerWrites]) hc)

/-- Settles O19: WRITE_REG's bus actions are one write frame. -/
theorem writeRegSendsAddressAndValue : Obligations.WriteRegSendsAddressAndValue :=
  commandRule_of
    (fun op1 op2 => decode_cmdWord (i := .writeReg op1 op2))
    (fun _ _ => rfl) (fun _ _ => rfl) (fun _ _ _ pass hc => exec_writeReg pass hc)

/-- Settles O6: with that word at the head of the moves, the state written out is `accept w s`. -/
theorem stepAcceptsAndRunsTheDecodedCommand :
    Obligations.StepAcceptsAndRunsTheDecodedCommand := by
  intro s w rest i hb hf hin hd
  rw [step_of_command ⟨hb, hf⟩ hin hd, accept, hin, List.tail_cons]

/-- Settles O16: INIT_SPI's one bus action is `CsSet(HIGH)`, performed after MODE is written. -/
theorem initSpiBindsSpiAndRaisesCs : Obligations.InitSpiBindsSpiAndRaisesCs := by
  refine ⟨fun _ _ => decode_cmdWord (i := .initSpi),
    fun s => ⟨fun hm => exec_eq_faulted (check_of_init rfl hm), fun hm hc => ?_⟩⟩
  have pass : check .initSpi s.mode = none := by rw [hm]; rfl
  rw [(initSpi_command pass).responds hc]
  simp [responded, respond, complete, answerOf, Level.toCs]

/-- Settles O17: INIT_I2C has no bus action to wait for. -/
theorem initI2cStoresTheSlaveAddress : Obligations.InitI2cStoresTheSlaveAddress := by
  refine fun op1 _ => ⟨decode_cmdWord (i := .initI2c op1),
    fun s => ⟨fun hm => exec_eq_faulted (check_of_init rfl hm), fun hm => ?_⟩⟩
  have pass : check (.initI2c op1) s.mode = none := by rw [hm]; rfl
  rw [(initI2c_command pass).responds (completes_zero _)]
  rfl

end Sys2Proof.Proofs
end

section
/-!
PROOFS. What a command leaves unwritten, however it ends (R21 to R29, R95 to R99): `exec_ends` says
once how it can end, which settles the registers no body writes; ACC, FAIL, TMP and the levels follow
from the frame lemmas, since a waiting body is cut short somewhere inside.
-/

namespace Sys2Proof.Machine

open Sys2Proof.Spec

/-- The states a command can leave from s: by its fault, by its response, or waiting after k of its
bus actions. -/
inductive Ends (i : Instr) (s : State) : State → Prop
  | faults (code : FaultCode) : Ends i s (raiseFault code s)
  | responds {s0 t : State} {m : Flow} {evs : List Event} {kind : RspKind} {data : Word32}
      (ran : Command i s s0 t m evs kind data) : Ends i s (responded kind data t)
  | waits {s0 t u : State} {m : Flow} {evs : List Event} {kind : RspKind} {data : Word32} {k : Nat}
      (ran : Command i s s0 t m evs kind data) (advanced : Advanced s0 u (evs.take k)) : Ends i s u

theorem exec_ends {i : Instr} {s t : State} (h : exec i s = .next t) : Ends i s t := by
  obtain ⟨code, -, hexec⟩ | ⟨-, s0, u, m, evs, kind, data, ran⟩ := exec_cases i s
  · cases hexec.symm.trans h
    exact .faults code
  · by_cases hc : s0.completes evs.length = true
    · cases (ran.responds hc).symm.trans h
      exact .responds ran
    · obtain ⟨k, hk, hlt⟩ := (not_completes_iff s0 _).mp (by simpa using hc)
      obtain ⟨v, hexec, -, advanced⟩ := ran.waits (ran.stall_eq.symm.trans hk) hlt
      cases hexec.symm.trans h
      exact .waits ran advanced

section
variable {i : Instr} {s s0 t u : State} {m : Flow} {evs es : List Event} {kind : RspKind}
  {data : Word32}

/-! ## The registers no body writes -/

/-- What holds of the registers no body writes, and of how the trace grew. -/
structure Unwritten (i : Instr) (s t : State) : Prop where
  cfg : t.cfg = s.cfg
  cmd : t.cmd = s.cmd
  inputs : t.inputs = s.inputs
  binding : ¬ initCommand i → t.mode = s.mode ∧ t.slave = s.slave
  slave : i = .initSpi → t.slave = s.slave
  csLvl : i ≠ .initSpi → s.mode ≠ .spi → t.csLvl = s.csLvl
  trace : ∃ seg, t.trace = s.trace ++ seg

/-- Inside a command, before its response. -/
theorem Command.unwritten (ran : Command i s s0 t m evs kind data) (advanced : Advanced s0 u es) :
    Unwritten i s u := by
  obtain ⟨agree, htrace, -, -⟩ := advanced
  obtain rfl | ⟨rfl, rfl⟩ | ⟨sa, rfl, rfl⟩ := ran.start
  · exact ⟨agree.cfg, agree.cmd, agree.inputs, fun _ => ⟨agree.mode, agree.slave⟩,
      fun _ => agree.slave, fun _ hm => agree.csLvl hm, _, htrace⟩
  · exact ⟨agree.cfg, agree.cmd, agree.inputs, fun hi => absurd (.inl rfl) hi,
      fun _ => agree.slave, fun hi => absurd rfl hi, _, htrace⟩
  · exact ⟨agree.cfg, agree.cmd, agree.inputs, fun hi => absurd (.inr ⟨sa, rfl⟩) hi,
      fun hi => by simp at hi, fun _ _ => agree.csLvl (by simp), _, htrace⟩

theorem Unwritten.responded (h : Unwritten i s t) (kind : RspKind) (data : Word32) :
    Unwritten i s (responded kind data t) := by
  obtain ⟨seg, hseg⟩ := h.trace
  exact { h with trace := ⟨seg ++ [.respond kind data], by simp [hseg]⟩ }

theorem Ends.unwritten (ends : Ends i s t) : Unwritten i s t := by
  cases ends with
  | faults code =>
    exact ⟨rfl, rfl, rfl, fun _ => ⟨rfl, rfl⟩, fun _ => rfl, fun _ _ => rfl, _, rfl⟩
  | responds ran => exact (ran.unwritten ran.does.advanced).responded _ _
  | waits ran advanced => exact ran.unwritten advanced

/-! ## The registers some bodies write -/

/-- ACC is written by the measurements alone (R26). -/
theorem exec_keeps_acc (hp : i ≠ .getPressure) (ht : i ≠ .getTemperature)
    (h : exec i s = .next t) : t.acc = s.acc :=
  exec_keeps offRead_acc (fun _ _ _ => rfl) (fun _ _ => rfl) (fun _ _ => rfl) (fun _ _ => rfl) i
    (fun _ _ _ => rfl) (fun hi => (hi.elim hp ht).elim) (fun _ _ => rfl) s t h

/-- FAIL is written by DEFAULT_CONFIG alone (R28). -/
theorem exec_keeps_fail (hd : i ≠ .defaultConfig) (h : exec i s = .next t) : t.fail = s.fail :=
  exec_keeps offRead_fail (fun _ _ _ => rfl) (fun _ _ => rfl) (fun _ _ => rfl) (fun _ _ => rfl) i
    (fun hi => absurd hi hd) (fun _ _ _ => rfl) (fun _ _ => rfl) s t h

/-- The pin is read by GET_INT_STATE alone (R58). -/
theorem exec_keeps_levels (hg : i ≠ .getIntState) (h : exec i s = .next t) :
    t.levels = s.levels :=
  exec_keeps offRead_levels (fun _ _ _ => rfl) (fun _ _ => rfl) (fun _ _ => rfl) (fun _ _ => rfl) i
    (fun _ _ _ => rfl) (fun _ _ _ => rfl) (fun hi => absurd hi hg) s t h

/-- A part of the state that neither the fault entry nor the body writes, the command leaves. -/
theorem runCommand_keeps {α : Type} (p : State → α) {body : State → Flow}
    (h : runCommand i body s = .next t) (hfault : ∀ code, p (raiseFault code s) = p s)
    (hbody : p (body s).state = p s) : p t = p s := by
  cases hc : check i s.mode with
  | some code =>
    cases (runCommand_fault hc).symm.trans h
    exact hfault code
  | none =>
    cases (runCommand_ok hc).symm.trans h
    exact hbody

/-- GET_INT_STATE reads the pin and touches no register but the response's (R58, R122). -/
theorem exec_getIntState_keeps {α : Type} (p : State → α)
    (hfault : ∀ code, p (raiseFault code s) = p s) (hread : p (complete .intRead s) = p s)
    (hwait : p { s with port := some .intRead } = p s)
    (hrespond : ∀ k d u, p (responded k d u) = p u) (h : exec .getIntState s = .next t) :
    p t = p s :=
  runCommand_keeps p h hfault
    (Flow.andThen_keeps p (perform_keeps p _ s hread hwait) fun _ hu => (hrespond _ _ _).trans hu)

/-- TMP is left by every command that makes no register read (R27). -/
theorem exec_keeps_tmp (hi : initCommand i ∨ i = .getIntState ∨ ∃ a v, i = .writeReg a v)
    (h : exec i s = .next t) : t.tmp = s.tmp := by
  obtain (rfl | ⟨sa, rfl⟩) | rfl | ⟨a, v, rfl⟩ := hi
  · exact runCommand_keeps State.tmp h (fun _ => rfl)
      (Flow.andThen_keeps State.tmp rfl fun u hu => Flow.andThen_keeps State.tmp
        ((offBus_tmp.perform (.csSet .high) u (by simp)).trans hu) fun _ hv => hv)
  · exact runCommand_keeps State.tmp h (fun _ => rfl) rfl
  · exact exec_getIntState_keeps State.tmp (fun _ => rfl) rfl rfl (fun _ _ _ => rfl) h
  · exact runCommand_keeps State.tmp h (fun _ => rfl)
      (Flow.andThen_keeps State.tmp (offBus_tmp.memWrite a v s) fun _ hu => hu)

end

end Sys2Proof.Machine

namespace Sys2Proof.Proofs

open Sys2Proof.Machine

/-- Settles O43, by the ways a command can end and by the frames of single registers. -/
theorem commandsWriteOnlyTheirRegisters : Obligations.CommandsWriteOnlyTheirRegisters := by
  intro i s t h
  obtain ⟨cfg, cmd, inputs, binding, slave, csLvl, trace⟩ := (exec_ends h).unwritten
  refine ⟨cfg, cmd, inputs, binding, slave, fun hp ht => exec_keeps_acc hp ht h,
    fun hd => exec_keeps_fail hd h, fun hi => exec_keeps_tmp hi h,
    fun hg => exec_keeps_levels hg h, csLvl, ?_, trace⟩
  rintro rfl
  exact exec_getIntState_keeps State.csLvl (fun _ => rfl) rfl rfl (fun _ _ _ => rfl) h

end Sys2Proof.Proofs
end

section
/-!
PROOFS. What a command does, whichever transport carries it (R100, R101).  `effect` gives, from
the parameters, the draws and the working registers alone, a command's register accesses in order,
its response and the working registers it leaves; `exec_realises` ties it to `exec` in every MODE.
That the two transports agree, and that no value read changes an action, is then read off it.
-/

namespace Sys2Proof.Machine

open Sys2Proof.Spec

/-! ## The effect of a command -/

/-- What a command does, but for how its accesses are framed. -/
structure Effect where
  /-- the bus actions that are part of no register access (R58, R96) -/
  other : List Event
  /-- the register accesses, in order -/
  accesses : List Access
  /-- RSP_KIND and RSP_DATA of the response -/
  kind : RspKind
  data : Word32
  /-- TMP, ACC and FAIL at the response -/
  tmp : Byte
  acc : Word32
  fail : Bool

/-- A plain register read that answers the byte (R98, R120, R121). -/
def readEffect (a : Byte) (s : State) : Effect :=
  ⟨[], [.read a (s.byteAt 0)], .byte, zext32 (s.byteAt 0), s.byteAt 0, s.acc, s.fail⟩

/-- A read-modify-write from `ar` to `aw` (R105). -/
def rmwEffect (ar aw : Byte) (f : Byte → Byte) (s : State) : Effect :=
  ⟨[], [.read ar (s.byteAt 0), .write aw (f (s.byteAt 0))], .none, 0#32, s.byteAt 0, s.acc, s.fail⟩

/-- The effect of a command that passes its checks (R96 to R123, R143, R145). -/
def effect (i : Instr) (s : State) : Effect :=
  match i with
  | .initSpi => ⟨[.bus (.csSet .high) .done], [], .none, 0#32, s.tmp, s.acc, s.fail⟩
  | .initI2c _ => ⟨[], [], .none, 0#32, s.tmp, s.acc, s.fail⟩
  | .readReg a => readEffect a s
  | .writeReg a v => ⟨[], [.write a v], .none, 0#32, s.tmp, s.acc, s.fail⟩
  | .enable => rmwEffect s.cfg.raCtrlReg1 s.cfg.raCtrlReg1 fEnable s
  | .powerDown => rmwEffect s.cfg.raCtrlReg1 s.cfg.raCtrlReg1 fPowerDown s
  | .setOdr rate => rmwEffect s.cfg.raCtrlReg1 s.cfg.raCtrlReg1 (fSetOdr rate) s
  | .intCircuitOn => rmwEffect s.cfg.raCtrlReg1 s.cfg.raCtrlReg1 fIntCircuitOn s
  | .intCircuitOff => rmwEffect s.cfg.raCtrlReg1 s.cfg.raCtrlReg1 fIntCircuitOff s
  | .bduOn => rmwEffect s.cfg.raCtrlReg1 s.cfg.raCtrlReg1 fBduOn s
  | .bduOff => rmwEffect s.cfg.raCtrlReg1 s.cfg.raCtrlReg1 fBduOff s
  | .deltaOn => rmwEffect s.cfg.raCtrlReg1 s.cfg.raCtrlReg1 fDeltaOn s
  | .deltaOff => rmwEffect s.cfg.raCtrlReg1 s.cfg.raCtrlReg1 fDeltaOff s
  | .spiIfMode mode =>
    rmwEffect s.cfg.raCtrlReg1 s.cfg.raCtrlReg1 (if mode = 4#8 then fSpiIf4 else fSpiIf3) s
  | .rebootMode mode => rmwEffect s.cfg.raCtrlReg2 s.cfg.raCtrlReg2 (fRebootMode mode) s
  | .softReset => rmwEffect s.cfg.raCtrlReg2 s.cfg.raCtrlReg2 fSoftReset s
  | .setIntCfg v => rmwEffect s.cfg.raIntCfgReg (intCfgTarget s.cfg) (fOrValue v) s
  | .setConfig v => rmwEffect s.cfg.raResConfig s.cfg.raResConfig (fOrValue v) s
  | .getConfig => readEffect s.cfg.raResConfig s
  | .readId => readEffect s.cfg.raDeviceId s
  | .getIntState =>
    ⟨[.bus .intRead (.level (s.levelAt 0))], [], .bit, bitResult (s.levelAt 0), s.tmp, s.acc, s.fail⟩
  | .defaultConfig =>
    ⟨[], [.write s.cfg.raResConfig 0x78#8, .read s.cfg.raResConfig (s.byteAt 0),
        .write s.cfg.raCtrlReg1 0x74#8, .read s.cfg.raCtrlReg1 (s.byteAt 1),
        .write s.cfg.raCtrlReg1 0xF4#8, .read s.cfg.raCtrlReg1 (s.byteAt 2),
        .read s.cfg.raDeviceId (s.byteAt 3)],
      .bool, boolResult (defaultConfigFail s), s.byteAt 3, s.acc, defaultConfigFail s⟩
  | .getPressure =>
    let raw := assemblePressure (s.byteAt 0) (s.byteAt 1) (s.byteAt 2)
    ⟨[], [.read s.cfg.raPressMsb (s.byteAt 0), .read s.cfg.raPressLsb (s.byteAt 1),
        .read s.cfg.raPressXlsb (s.byteAt 2)],
      .f32, bits32 (pressure raw.toNat), s.byteAt 2, raw, s.fail⟩
  | .getTemperature =>
    let raw := assembleTemperature (s.byteAt 0) (s.byteAt 1)
    ⟨[], [.read s.cfg.raTempMsb (s.byteAt 0), .read s.cfg.raTempLsb (s.byteAt 1)],
      .f32, bits32 (temp s.cfg.tempEval (s16 raw)), s.byteAt 1, raw, s.fail⟩

/-- The bus actions of one register access (R56, R57, R84). -/
def Access.frame (mode : Mode) (slave : Byte) : Access → List Event
  | .read a d => readFrame mode slave a d
  | .write a v => writeFrame mode slave a v

/-- The bus actions of register accesses, in order. -/
def framesOf (mode : Mode) (slave : Byte) (as : List Access) : List Event :=
  as.flatMap (Access.frame mode slave)

/-- t is what a command with the effect e leaves from s. -/
structure Realises (s t : State) (e : Effect) : Prop where
  trace : t.trace =
    s.trace ++ (e.other ++ (framesOf s.mode s.slave e.accesses ++ [.respond e.kind e.data]))
  kind : t.rspKind = e.kind
  data : t.rspData = e.data
  tmp : t.tmp = e.tmp
  acc : t.acc = e.acc
  fail : t.fail = e.fail

/-- A command realises the effect that has its bus actions, its response and the working registers
they leave. -/
theorem Command.realises {i : Instr} {s s0 t : State} {m : Flow} {evs : List Event} {kind : RspKind}
    {data : Word32} (ran : Command i s s0 t m evs kind data)
    (hc : s.completes (busActions i s.mode) = true) {other : List Event} {accs : List Access}
    (hevs : evs = other ++ framesOf s.mode s.slave accs) :
    ∃ u, exec i s = .next u ∧ Realises s u ⟨other, accs, kind, data, t.tmp, t.acc, t.fail⟩ := by
  rw [← ran.count] at hc
  have htrace := ran.does.advanced.trace
  obtain ⟨mode, slave, rfl⟩ := ran.bound
  refine ⟨_, ran.responds hc, ?_, rfl, rfl, rfl, rfl, rfl⟩
  rw [responded_trace, htrace, hevs]
  simp

/-- A command that passes its checks and whose bus actions complete has its effect. -/
theorem exec_realises {i : Instr} {s : State} (pass : check i s.mode = none)
    (hc : s.completes (busActions i s.mode) = true) :
    ∃ t, exec i s = .next t ∧ Realises s t (effect i s) := by
  cases i with
  | initSpi => exact (initSpi_command pass).realises hc rfl
  | initI2c sa => exact (initI2c_command pass).realises hc rfl
  | writeReg a v =>
    exact (write_command pass).realises hc (by simp [framesOf, Access.frame])
  | getIntState => exact (int_command pass).realises hc rfl
  | defaultConfig =>
    exact (defaultConfig_command pass).realises hc
      (by simp [framesOf, Access.frame, defaultConfigFrame, checkFrame])
  | getPressure =>
    exact (pressure_command pass).realises hc (by simp [framesOf, Access.frame, pressureFrame])
  | getTemperature =>
    exact (temperature_command pass).realises hc
      (by simp [framesOf, Access.frame, temperatureFrame])
  | readReg | getConfig | readId =>
    exact (read_command pass rfl rfl (by simp [busActions, registerReads, registerWrites])).realises
      hc (by simp [framesOf, Access.frame])
  | _ =>
    exact (rmw_command pass rfl rfl (by simp [busActions, registerReads, registerWrites])).realises
      hc (by simp [framesOf, Access.frame, rmwFrame])

/-! ## The actions a value read leaves as they are (R101) -/

/-- An access but for the values read and written. -/
def Access.shape : Access → Access
  | .read a _ => .read a 0#8
  | .write a _ => .write a 0#8

theorem shapesOf_append (es fs : List Event) : shapesOf (es ++ fs) = shapesOf es ++ shapesOf fs := by
  induction es with
  | nil => rfl
  | cons e es ih => cases e <;> simp [shapesOf, ih]

theorem shapesOf_frame (mode : Mode) (slave : Byte) (x : Access) :
    shapesOf (x.frame mode slave) = shapesOf (x.shape.frame mode slave) := by
  cases x <;> cases mode <;> rfl

/-- The shapes of frames are those of the accesses without their values. -/
theorem shapesOf_framesOf_map (mode : Mode) (slave : Byte) (as : List Access) :
    shapesOf (framesOf mode slave as) = shapesOf (framesOf mode slave (as.map Access.shape)) := by
  induction as with
  | nil => rfl
  | cons x xs ih =>
    simp only [framesOf, List.map_cons, List.flatMap_cons, shapesOf_append] at ih ⊢
    rw [ih, ← shapesOf_frame]

theorem shapesOf_framesOf_congr (mode : Mode) (slave : Byte) {as bs : List Access}
    (h : as.map Access.shape = bs.map Access.shape) :
    shapesOf (framesOf mode slave as) = shapesOf (framesOf mode slave bs) := by
  rw [shapesOf_framesOf_map, h, ← shapesOf_framesOf_map]

/-- Draws decide the values of a command's accesses and the pin level, and nothing else of its
actions. -/
theorem effect_shapes (i : Instr) {s s' : State} (hcfg : s'.cfg = s.cfg) :
    shapesOf (effect i s').other = shapesOf (effect i s).other ∧
      (effect i s').accesses.map Access.shape = (effect i s).accesses.map Access.shape := by
  cases i <;>
    simp [effect, readEffect, rmwEffect, Access.shape, shapesOf, actionShape, hcfg]

/-! ## The accesses both transports carry (R100) -/

/-- The address of an access. -/
def Access.addr : Access → Byte
  | .read a _ => a
  | .write a _ => a

/-- Both masks of R83 leave a mask-free address as it is. -/
theorem spiMasks_of_maskFree {a : Byte} (h : maskFree a) : a &&& 0xBF#8 = a ∧ a &&& 0x7F#8 = a := by
  unfold maskFree at h
  constructor <;> (rw [← h, BitVec.and_assoc]; rfl)

/-- A frame of a mask-free address is read back as the access it carries. -/
theorem accesses_frame {mode : Mode} (hm : mode ≠ .uninit) (slave : Byte) {x : Access}
    (hx : maskFree x.addr) (es : List Event) :
    accesses (x.frame mode slave ++ es) = x :: accesses es := by
  cases mode with
  | uninit => exact absurd rfl hm
  | i2c => cases x <;> rfl
  | spi =>
    obtain ⟨hread, hwrite⟩ := spiMasks_of_maskFree hx
    cases x with
    | read a d =>
      simp only [Access.addr] at hread
      simp [Access.frame, readFrame, accesses, hread]
    | write a v =>
      simp only [Access.addr] at hwrite
      simp [Access.frame, writeFrame, accesses, hwrite]

theorem accesses_framesOf {mode : Mode} (hm : mode ≠ .uninit) (slave : Byte) {as : List Access}
    (has : ∀ x ∈ as, maskFree x.addr) (es : List Event) :
    accesses (framesOf mode slave as ++ es) = as ++ accesses es := by
  induction as with
  | nil => rfl
  | cons x xs ih =>
    rw [framesOf, List.flatMap_cons, List.append_assoc, accesses_frame hm slave (has x (by simp))]
    exact congrArg (x :: ·) (ih fun y hy => has y (by simp [hy]))

/-- Actions that are part of no access are read back as none. -/
theorem accesses_other (i : Instr) (s : State) (es : List Event) :
    accesses ((effect i s).other ++ es) = accesses es := by
  cases i <;> rfl

theorem effect_maskFree {i : Instr} {s : State} (h : addressesMaskFree i s.cfg) :
    ∀ x ∈ (effect i s).accesses, maskFree x.addr := by
  obtain ⟨hres, hctrl1, hctrl2, hint, hid, hxlsb, hlsb, hmsb, htlsb, htmsb, hread, hwrite⟩ := h
  have htarget : maskFree (intCfgTarget s.cfg) := by
    unfold intCfgTarget
    split <;> assumption
  cases i with
  | readReg a => simpa [effect, readEffect, Access.addr] using hread a rfl
  | writeReg a v => simpa [effect, Access.addr] using hwrite a v rfl
  | _ => simp [effect, readEffect, rmwEffect, Access.addr, *]

/-- The accesses read off the trace of a command are those of its effect. -/
theorem Realises.accesses_eq {i : Instr} {s t : State} (h : Realises s t (effect i s))
    (hm : s.mode ≠ .uninit) (hfree : addressesMaskFree i s.cfg) :
    ∃ seg, t.trace = s.trace ++ seg ∧ accesses seg = (effect i s).accesses := by
  refine ⟨_, h.trace, ?_⟩
  rw [accesses_other, accesses_framesOf hm _ (effect_maskFree hfree)]
  exact List.append_nil _

/-- The effect of a command reads neither MODE nor SLAVE nor CS_LVL. -/
theorem effect_withBus (i : Instr) (s : State) (mode : Mode) (slave : Byte) (cs : CsLevel) :
    effect i { s with mode := mode, slave := slave, csLvl := cs } = effect i s := by
  cases i <;> rfl

/-- No command takes more bus actions over I2C than over SPI (R200). -/
theorem busActions_i2c_le_spi (i : Instr) : busActions i .i2c ≤ busActions i .spi := by
  cases i <;> simp [busActions, registerReads, registerWrites, readActions, writeActions]

theorem completes_mono {s : State} {m n : Nat} (h : m ≤ n) (hn : s.completes n = true) :
    s.completes m = true := by
  rw [completes_iff] at hn ⊢
  exact fun k hk => h.trans (hn k hk)

end Sys2Proof.Machine

namespace Sys2Proof.Proofs

open Sys2Proof.Machine Sys2Proof.Spec

/-- Settles O36: a command that fails its check issues nothing, and the actions of any other are
those of its effect. -/
theorem readValuesDoNotChangeTheActions : Obligations.ReadValuesDoNotChangeTheActions := by
  intro i s s' hmode hslave hcfg hc hc'
  cases hcheck : check i s.mode with
  | some code =>
    exact ⟨_, _, [.fault code s.cmd], [.fault code s'.cmd], exec_eq_faulted hcheck,
      exec_eq_faulted (hmode ▸ hcheck), rfl, rfl, rfl⟩
  | none =>
    obtain ⟨t, ht, hrun⟩ := exec_realises hcheck hc
    obtain ⟨t', ht', hrun'⟩ := exec_realises (s := s') (hmode ▸ hcheck) (hmode ▸ hc')
    obtain ⟨hother, haccs⟩ := effect_shapes i hcfg
    refine ⟨t, t', _, _, ht, ht', hrun.trace, hrun'.trace, ?_⟩
    simp only [shapesOf_append, hmode, hslave, hother, shapesOf_framesOf_congr _ _ haccs]
    rfl

/-- Settles O37: the effect of a command is the same in both transports. -/
theorem transportsCarryTheSameAccesses : Obligations.TransportsCarryTheSameAccesses := by
  intro i s slave cs hm hpass hfree hc
  have pass : check i s.mode = none := hm ▸ (check_eq_none_iff i .spi).mpr hpass
  have passI2c : check i .i2c = none := by
    rw [check_eq_none_iff]
    simpa [passes] using hpass
  obtain ⟨t, ht, hrun⟩ := exec_realises pass (hm ▸ hc)
  obtain ⟨u, hu, hrun'⟩ := exec_realises (s := { s with mode := .i2c, slave := slave, csLvl := cs })
    passI2c (completes_mono (busActions_i2c_le_spi i) hc)
  obtain ⟨segT, hsegT, haccT⟩ := hrun.accesses_eq (by simp [hm]) hfree
  obtain ⟨segU, hsegU, haccU⟩ := hrun'.accesses_eq (by simp) hfree
  rw [effect_withBus] at hrun' haccU
  exact ⟨t, u, segT, segU, ht, hu, hsegT, hsegU, haccT.trans haccU.symm,
    hrun.kind.trans hrun'.kind.symm, hrun.data.trans hrun'.data.symm,
    hrun.tmp.trans hrun'.tmp.symm, hrun.acc.trans hrun'.acc.symm, hrun.fail.trans hrun'.fail.symm⟩

end Sys2Proof.Proofs
end

section
/-!
PROOFS. The control operations and DEFAULT_CONFIG (R105 to R125).  A read-modify-write command writes
`writeFn` of the byte it reads, and `exec_eq_afterRmw` says once what it leaves.  Each `writeFn`
replaces a field of the byte (`writeFn_eq_setField`), from which the bits it keeps are read off.
-/

namespace Sys2Proof.Machine

open Sys2Proof.Spec

/-! ## The fields of a byte -/

/-- The byte t with the bits under the mask m replaced by those of b. -/
def setField (m b t : Byte) : Byte := t &&& ~~~m ||| b

theorem setField_and_not {m b : Byte} (hb : b &&& m = b) (t : Byte) :
    setField m b t &&& ~~~m = t &&& ~~~m := by
  have outside : b &&& ~~~m = 0#8 := by rw [← hb, BitVec.and_assoc, BitVec.and_not_self]; simp
  rw [setField, BitVec.and_or_distrib_right, BitVec.and_assoc, BitVec.and_self, outside,
    BitVec.or_zero]

theorem setField_and {m b : Byte} (hb : b &&& m = b) (t : Byte) : setField m b t &&& m = b := by
  rw [setField, BitVec.and_or_distrib_right, BitVec.and_assoc, hb]
  simp

/-- A field replaced twice holds the later bits. -/
theorem setField_setField {m c : Byte} (hc : c &&& m = c) (b t : Byte) :
    setField m b (setField m c t) = setField m b t := by
  rw [setField, setField_and_not hc, ← setField]

/-- Clearing the bits under m. -/
theorem and_not_eq_setField (m t : Byte) : t &&& ~~~m = setField m 0#8 t := BitVec.or_zero.symm

/-- An OR as a replacement, under any mask. -/
theorem or_eq_setField (m x t : Byte) : t ||| x = setField m (t &&& m ||| x) t := by
  rw [setField, ← BitVec.or_assoc, ← BitVec.and_or_distrib_left]
  simp

theorem and_or_self (t m : Byte) : t &&& m ||| m = m := by
  ext k hk
  simp +contextual

/-- Setting the bits under m. -/
theorem or_self_eq_setField (m t : Byte) : t ||| m = setField m m t := by
  rw [or_eq_setField m m t, and_or_self]

theorem or_and_absorb (t x : Byte) : (t ||| x) &&& t = t := by
  ext k hk
  simp +contextual

theorem or_idem (x t : Byte) : t ||| x ||| x = t ||| x := by
  rw [BitVec.or_assoc, BitVec.or_self]

theorem and_idem (m t : Byte) : t &&& m &&& m = t &&& m := by
  rw [BitVec.and_assoc, BitVec.and_self]

/-! ## The operand fields (R77, R108, R116) -/

theorem ofNat_mod_eq_and (r : Byte) (k : Nat) :
    BitVec.ofNat 8 (r.toNat % 2 ^ k) = r &&& BitVec.ofNat 8 (2 ^ k - 1) := by
  rw [← Nat.and_two_pow_sub_one_eq_mod, BitVec.ofNat_and, BitVec.ofNat_toNat, BitVec.setWidth_eq]

theorem ofNat_mul_eq_shiftLeft (n k : Nat) :
    BitVec.ofNat 8 (n * 2 ^ k) = BitVec.ofNat 8 n <<< k := by
  apply BitVec.eq_of_toNat_eq
  simp [Nat.shiftLeft_eq]

/-- SET_ODR's rate is its operand modulo 8 (R77). -/
theorem odrRate_eq_mod (rate : Byte) : odrRate rate = BitVec.ofNat 8 (rate.toNat % 8) :=
  (ofNat_mod_eq_and rate 3).symm

/-- REBOOT_MODE's bit is its operand modulo 2 (R77). -/
theorem rebootBit_eq_mod (mode : Byte) : mode &&& 0x01#8 = BitVec.ofNat 8 (mode.toNat % 2) :=
  (ofNat_mod_eq_and mode 1).symm

/-- The rate in the place R124 gives it. -/
theorem odrField_eq_mod (rate : Byte) :
    odrRate rate <<< 4 = BitVec.ofNat 8 (rate.toNat % 8 * 16) := by
  rw [odrRate_eq_mod]
  exact (ofNat_mul_eq_shiftLeft _ 4).symm

/-- The reboot mode in the place R124 gives it. -/
theorem rebootField_eq_mod (mode : Byte) :
    (mode &&& 0x01#8) <<< 7 = BitVec.ofNat 8 (mode.toNat % 2 * 128) := by
  rw [rebootBit_eq_mod]
  exact (ofNat_mul_eq_shiftLeft _ 7).symm

/-- The rate lies in bits 6:4 (R108). -/
theorem odrField_and (rate : Byte) : odrRate rate <<< 4 &&& 0x70#8 = odrRate rate <<< 4 := by
  rw [odrRate, BitVec.shiftLeft_and_distrib, BitVec.and_assoc]
  rfl

/-- The reboot mode lies in bit 7 (R116). -/
theorem rebootField_and (mode : Byte) :
    (mode &&& 0x01#8) <<< 7 &&& 0x80#8 = (mode &&& 0x01#8) <<< 7 := by
  rw [BitVec.shiftLeft_and_distrib, BitVec.and_assoc]
  rfl

/-! ## The write functions (R105, R124) -/

/-- The write function f of a read-modify-write command (R105 to R119). -/
def writeFn : Instr → Byte → Byte
  | .enable => fEnable
  | .powerDown => fPowerDown
  | .setOdr rate => fSetOdr rate
  | .intCircuitOn => fIntCircuitOn
  | .intCircuitOff => fIntCircuitOff
  | .bduOn => fBduOn
  | .bduOff => fBduOff
  | .deltaOn => fDeltaOn
  | .deltaOff => fDeltaOff
  | .spiIfMode mode => if mode = 4#8 then fSpiIf4 else fSpiIf3
  | .rebootMode mode => fRebootMode mode
  | .softReset => fSoftReset
  | .setIntCfg value | .setConfig value => fOrValue value
  | _ => id

theorem odrRate_idem (rate : Byte) : odrRate (odrRate rate) = odrRate rate := and_idem _ rate

theorem fSetOdr_eq_setField (rate t : Byte) :
    fSetOdr rate t = setField 0x70#8 (odrRate rate <<< 4) t := rfl

/-- A read-modify-write command replaces the field R124 lists by the value it lists. -/
theorem writeFn_eq_setField {i : Instr} {t m b : Byte} (h : rmwField t i = some (m, b)) :
    writeFn i t = setField m b t ∧ b &&& m = b := by
  have sets (m : Byte) : t ||| m = setField m m t ∧ m &&& m = m :=
    ⟨or_self_eq_setField m t, BitVec.and_self⟩
  have clears (m : Byte) : t &&& ~~~m = setField m 0#8 t ∧ 0#8 &&& m = 0#8 :=
    ⟨and_not_eq_setField m t, BitVec.zero_and⟩
  cases i with
  | enable | intCircuitOn | bduOn | deltaOn | softReset | setIntCfg | setConfig =>
    cases h
    exact sets _
  | powerDown => cases h; exact clears 0x80#8
  | intCircuitOff => cases h; exact clears 0x08#8
  | bduOff => cases h; exact clears 0x04#8
  | deltaOff => cases h; exact clears 0x02#8
  | setOdr rate =>
    cases h
    rw [← odrField_eq_mod]
    exact ⟨fSetOdr_eq_setField rate t, odrField_and rate⟩
  | spiIfMode mode =>
    by_cases h4 : mode = 4#8
    · rw [rmwField, if_pos h4] at h
      cases h
      rw [writeFn, if_pos h4]
      exact clears 0x10#8
    · rw [rmwField, if_neg h4] at h
      cases h
      rw [writeFn, if_neg h4]
      exact sets 0x01#8
  | rebootMode mode =>
    cases h
    rw [← rebootField_eq_mod, BitVec.and_or_distrib_right, rebootField_and, and_idem]
    exact ⟨or_eq_setField 0x80#8 _ t, rfl⟩
  | _ => simp [rmwField] at h

/-! ## The commands -/

section
variable {i : Instr} {s : State} {ar aw : Byte}

/-- The commands R105 and R118 give a register to read and one to write run the read-modify-write
sequence with their write function. -/
theorem exec_of_rmwTargets (h : rmwTargets s.cfg i = some (ar, aw)) :
    exec i s = runCommand i (runAll [rmw ar aw (writeFn i), respond .none 0#32]) s := by
  cases i with
  | initSpi | initI2c | readReg | writeReg | getConfig | readId | getIntState | defaultConfig
  | getPressure | getTemperature => simp [rmwTargets] at h
  | _ => cases h; rfl

theorem isInit_of_rmwTargets {cfg : Config} (h : rmwTargets cfg i = some (ar, aw)) :
    isInit i = false := by
  cases i with
  | initSpi | initI2c => simp [rmwTargets] at h
  | _ => rfl

/-- A read-modify-write command is one register read and one register write (R200). -/
theorem busActions_of_rmwTargets {cfg : Config} (h : rmwTargets cfg i = some (ar, aw))
    (mode : Mode) : busActions i mode = readActions mode + writeActions mode := by
  cases i <;> simp_all [rmwTargets, busActions, registerReads, registerWrites]

/-- A read-modify-write command leaves the byte read in TMP and answers NONE (R105). -/
theorem exec_eq_afterRmw (pass : check i s.mode = none)
    (h : rmwTargets s.cfg i = some (ar, aw))
    (hc : s.completes (readActions s.mode + writeActions s.mode) = true) :
    exec i s = .next (afterRmw s ar aw (writeFn i (s.byteAt 0))) := by
  have ran := rmw_command pass (isInit_of_rmwTargets h) (exec_of_rmwTargets h)
    (busActions_of_rmwTargets h s.mode)
  have hlen : (rmwFrame s ar aw (writeFn i)).length = readActions s.mode + writeActions s.mode := by
    simp [rmwFrame]
  rw [ran.responds (by rwa [hlen]), responded_moved hlen]
  rfl

end

/-- A command that reads and writes one register obeys the rule of R105 with its write function. -/
theorem rmwRule_of {opc : Byte} {ins : Byte → Byte → Instr} {ra : Config → Byte}
    {f : Byte → Byte → Byte}
    (hdecode : ∀ op1 op2, decode (cmdWord opc op1 op2) = .ok (ins op1 op2))
    (htargets : ∀ op1 op2 cfg, rmwTargets cfg (ins op1 op2) = some (ra cfg, ra cfg))
    (hoperand : ∀ op1 op2, badOperand (ins op1 op2) = false)
    (hwrite : ∀ op1 op2 t, writeFn (ins op1 op2) t = f op1 t) : rmwRule opc ins ra f :=
  commandRule_of hdecode (fun op1 op2 => isInit_of_rmwTargets (htargets op1 op2 .default)) hoperand
    fun op1 op2 s pass hc => by rw [exec_eq_afterRmw pass (htargets op1 op2 s.cfg) hc, hwrite]

/-- Such a command with both operand bytes ignored (R77). -/
theorem rmwRule_of_noOperand (i : Instr) {ra : Config → Byte} (hmask : i.operandMask = (0#8, 0#8))
    (hops : i.operands = (0#8, 0#8)) (hoperand : badOperand i = false)
    (htargets : ∀ cfg, rmwTargets cfg i = some (ra cfg, ra cfg)) :
    rmwRule i.opcode (fun _ _ => i) ra (fun _ => writeFn i) :=
  rmwRule_of (fun _ _ => decode_cmdWord (by simp [hmask, hops]) (by simp [hmask, hops]))
    (fun _ _ => htargets) (fun _ _ => hoperand) fun _ _ _ => rfl

/-- SPI_IF_MODE with a mode other than 3 and 4 (R165). -/
theorem check_spiIfMode_bad {op1 : Byte} {mode : Mode} (hm : mode ≠ .uninit) (h3 : op1 ≠ 3#8)
    (h4 : op1 ≠ 4#8) : check (.spiIfMode op1) mode = some .badArgument := by
  simp [check, isInit, badOperand, hm, h3, h4]

/-- GET_INT_STATE's one action is `IntRead` (R122). -/
theorem exec_getIntState {s : State} (pass : check .getIntState s.mode = none)
    (hc : s.completes 1 = true) :
    exec .getIntState s =
      .next (responded .bit (bitResult (s.levelAt 0)) (complete .intRead s)) :=
  (int_command pass).responds hc

/-- FAIL is clear after DEFAULT_CONFIG exactly when all four bytes read match (R123). -/
theorem defaultConfigFail_eq (s : State) :
    defaultConfigFail s = !(s.byteAt 0 == 0x78#8 && s.byteAt 1 == 0x74#8 &&
      s.byteAt 2 == 0xF4#8 && s.byteAt 3 == 0xBB#8) := by
  simp only [defaultConfigFail, failAfter, bne, Bool.not_and, Bool.false_or]

theorem boolResult_not (b : Bool) : boolResult (!b) = if b then 1#32 else 0#32 := by
  cases b <;> rfl

theorem defaultConfigFrame_length (s : State) :
    (defaultConfigFrame s).length = 4 * readActions s.mode + 3 * writeActions s.mode := by
  simp only [defaultConfigFrame, checkFrame, List.length_append, readFrame_length,
    writeFrame_length]
  omega

/-- What DEFAULT_CONFIG leaves, its response posted (R123). -/
theorem exec_defaultConfig {s : State} (pass : check .defaultConfig s.mode = none)
    (hc : s.completes (4 * readActions s.mode + 3 * writeActions s.mode) = true) :
    exec .defaultConfig s =
      .next { replied s (defaultConfigFrame s) 4 (4 * readActions s.mode + 3 * writeActions s.mode)
          .bool (boolResult (defaultConfigFail s)) with
        tmp := s.byteAt 3, fail := defaultConfigFail s } := by
  rw [(defaultConfig_command pass).responds (by rwa [defaultConfigFrame_length]),
    ← defaultConfigFrame_length]
  rfl

end Sys2Proof.Machine

namespace Sys2Proof.Proofs

open Sys2Proof.Machine Sys2Proof.Spec

/-- Settles O20: each of the eight commands is a read-modify-write on CTRL_REG1. -/
theorem ctrlReg1BitCommandsSetOrClearOneBit : Obligations.CtrlReg1BitCommandsSetOrClearOneBit :=
  ⟨rmwRule_of_noOperand .enable rfl rfl rfl fun _ => rfl,
    rmwRule_of_noOperand .powerDown rfl rfl rfl fun _ => rfl,
    rmwRule_of_noOperand .intCircuitOn rfl rfl rfl fun _ => rfl,
    rmwRule_of_noOperand .intCircuitOff rfl rfl rfl fun _ => rfl,
    rmwRule_of_noOperand .bduOn rfl rfl rfl fun _ => rfl,
    rmwRule_of_noOperand .bduOff rfl rfl rfl fun _ => rfl,
    rmwRule_of_noOperand .deltaOn rfl rfl rfl fun _ => rfl,
    rmwRule_of_noOperand .deltaOff rfl rfl rfl fun _ => rfl⟩

/-- Settles O21: the rate, masked in the model, is the operand modulo 8. -/
theorem setOdrReplacesTheRateField : Obligations.SetOdrReplacesTheRateField :=
  rmwRule_of (fun op1 _ => decode_cmdWord (i := .setOdr op1)) (fun _ _ _ => rfl) (fun _ _ => rfl)
    fun op1 _ _ => by rw [writeFn, fSetOdr, odrRate_eq_mod]

/-- Settles O22: modes 3 and 4 pass the check, each with its own write function. -/
theorem spiIfModeClearsBit4OrSetsBit0 : Obligations.SpiIfModeClearsBit4OrSetsBit0 := by
  refine ⟨fun op1 _ => decode_cmdWord (i := .spiIfMode op1), fun op1 s => ⟨fun hm => ?_,
    fun hm h3 h4 => exec_eq_faulted (check_spiIfMode_bad hm h3 h4), fun hm hc => ⟨?_, ?_⟩⟩⟩
  · exact exec_eq_faulted (hm ▸ check_of_uninit rfl)
  · rintro rfl
    exact exec_eq_afterRmw (check_eq_none rfl rfl hm) rfl hc
  · rintro rfl
    exact exec_eq_afterRmw (check_eq_none rfl rfl hm) rfl hc

/-- Settles O23: both commands are read-modify-writes on CTRL_REG2. -/
theorem ctrlReg2CommandsSetBits : Obligations.CtrlReg2CommandsSetBits := by
  constructor
  · exact rmwRule_of (fun op1 _ => decode_cmdWord (i := .rebootMode op1)) (fun _ _ _ => rfl)
      (fun _ _ => rfl) fun op1 _ _ => by rw [writeFn, fRebootMode, rebootBit_eq_mod]
  · exact rmwRule_of_noOperand .softReset rfl rfl rfl fun _ => rfl

/-- Settles O24: SET_INT_CFG is the one read-modify-write with two registers. -/
theorem setIntCfgWritesTheConfiguredTarget : Obligations.SetIntCfgWritesTheConfiguredTarget :=
  commandRule_of (fun op1 _ => decode_cmdWord (i := .setIntCfg op1)) (fun _ _ => rfl)
    (fun _ _ => rfl) fun _ _ _ pass hc => exec_eq_afterRmw pass rfl hc

/-- Settles O25: SET_CONFIG is a read-modify-write on RES_CONFIG. -/
theorem setConfigOrsIntoResConfig : Obligations.SetConfigOrsIntoResConfig :=
  rmwRule_of (fun op1 _ => decode_cmdWord (i := .setConfig op1)) (fun _ _ _ => rfl)
    (fun _ _ => rfl) fun _ _ _ => rfl

/-- Settles O26: both commands' bus actions are one read frame. -/
theorem getConfigAndReadIdArePlainReads : Obligations.GetConfigAndReadIdArePlainReads := by
  constructor
  · exact commandRule_of (fun _ _ => decode_cmdWord (i := .getConfig)) (fun _ _ => rfl)
      (fun _ _ => rfl) fun _ _ _ pass hc => exec_eq_afterReadByte pass rfl rfl
        (by simp [busActions, registerReads, registerWrites]) hc
  · exact commandRule_of (fun _ _ => decode_cmdWord (i := .readId)) (fun _ _ => rfl)
      (fun _ _ => rfl) fun _ _ _ pass hc => exec_eq_afterReadByte pass rfl rfl
        (by simp [busActions, registerReads, registerWrites]) hc

/-- Settles O27: GET_INT_STATE completes one `IntRead` and responds. -/
theorem getIntStateAnswersThePinLevel : Obligations.GetIntStateAnswersThePinLevel := by
  refine commandRule_of (fun _ _ => decode_cmdWord (i := .getIntState)) (fun _ _ => rfl)
    (fun _ _ => rfl) fun _ _ s pass hc => ?_
  rw [exec_getIntState pass hc]
  simp [responded, respond, complete, answerOf, bitResult]

/-- Settles O28: DEFAULT_CONFIG's bus actions are `defaultConfigFrame`, whatever is read, and FAIL is
clear when the four bytes match. -/
theorem defaultConfigRunsAllChecks : Obligations.DefaultConfigRunsAllChecks := by
  refine commandRule_of (fun _ _ => decode_cmdWord (i := .defaultConfig)) (fun _ _ => rfl)
    (fun _ _ => rfl) fun _ _ s pass hc => ?_
  rw [exec_defaultConfig pass hc, defaultConfigFail_eq, boolResult_not]
  simp only [defaultConfigFrame, checkFrame, List.append_assoc]

/-- Settles O33: the byte written is the byte read with the field of R124 replaced. -/
theorem rmwPreservesBitsOutsideItsMask : Obligations.RmwPreservesBitsOutsideItsMask := by
  intro i s ar aw m b htargets hfield hpass hc
  obtain ⟨hwrite, hb⟩ := writeFn_eq_setField hfield
  rw [busActions_of_rmwTargets htargets] at hc
  refine ⟨_, writeFn i (s.byteAt 0),
    exec_eq_afterRmw ((check_eq_none_iff i s.mode).mpr hpass) htargets hc, ?_, ?_, ?_⟩
  · simp [afterRmw, replied]
  · rw [hwrite, setField_and_not hb]
  · rw [hwrite, setField_and hb]

/-- Settles O34: every write function is an OR, an AND, or SET_ODR's replacement of bits 6:4. -/
theorem writeFunctionsObeyTheirLaws : Obligations.WriteFunctionsObeyTheirLaws := by
  intro t r v
  refine ⟨⟨or_idem _ t, and_idem _ t, ?_, or_idem _ t, and_idem _ t, or_idem _ t, and_idem _ t,
    or_idem _ t, and_idem _ t, and_idem _ t, or_idem _ t, or_idem _ t, or_idem _ t, or_idem v t⟩,
    ?_, ?_, ?_, or_and_absorb t _, or_and_absorb t v⟩
  · simp only [fSetOdr_eq_setField, setField_setField (odrField_and r)]
  · rw [← odrRate_eq_mod, fSetOdr, fSetOdr, odrRate_idem]
  · rw [fPowerDown, fEnable, BitVec.and_or_distrib_right]
    exact BitVec.or_zero
  · rw [fSetOdr, fSpiIf4, BitVec.and_assoc]
    rfl

end Sys2Proof.Proofs
end

section
/-!
PROOFS. `f32` as a function of rationals (R17, R142): it depends on the value of a fraction alone
(`f32_congr`), is monotone (`f32_mono`), keeps the values binary32 has (`f32_exact`), and rounds
numbers from 2 ^ -126 up to 2 ^ 127 to normal ones (`f32_normal`).
-/

namespace Sys2Proof

theorem Frac.add_den_ne_zero {p q : Frac} (hp : p.den ≠ 0) (hq : q.den ≠ 0) : (p.add q).den ≠ 0 :=
  mul_ne_zero hp hq

theorem Frac.div_den_ne_zero {p q : Frac} (hp : p.den ≠ 0) (hq : q.num ≠ 0) : (p.div q).den ≠ 0 :=
  mul_ne_zero hp (Int.natAbs_ne_zero.mpr hq)

theorem B32.value_den_ne_zero (x : B32) : x.value.den ≠ 0 := (B32.value_eq x).1

end Sys2Proof

namespace Sys2Proof.Proofs

open Sys2Proof.Spec

/-! ## The rounded significand depends on the value alone -/

theorem roundTiesEven_mul_right (n d : Nat) {c : Nat} (hc : 0 < c) :
    roundTiesEven (n * c) (d * c) = roundTiesEven n d := by
  simp only [roundTiesEven, Nat.mul_div_mul_right _ _ hc, Nat.mul_mod_mul_right, ← mul_assoc,
    Nat.mul_lt_mul_right hc]

theorem roundTiesEven_congr {n d n' d' : Nat} (hd : d ≠ 0) (hd' : d' ≠ 0)
    (h : (n : ℚ) / d = n' / d') : roundTiesEven n d = roundTiesEven n' d' := by
  have hcross : n * d' = n' * d := by
    rw [div_eq_div_iff (by exact_mod_cast hd) (by exact_mod_cast hd')] at h
    exact_mod_cast h
  calc roundTiesEven n d = roundTiesEven (n * d') (d * d') :=
        (roundTiesEven_mul_right n d (Nat.pos_of_ne_zero hd')).symm
    _ = roundTiesEven (n' * d) (d' * d) := by rw [hcross, mul_comm d d']
    _ = roundTiesEven n' d' := roundTiesEven_mul_right n' d' (Nat.pos_of_ne_zero hd)

theorem floorLog2_eq_log (n d : Nat) (hn : n ≠ 0) (hd : d ≠ 0) :
    floorLog2 n d = Int.log 2 ((n : ℚ) / d) := by
  have hpos : (0 : ℚ) < (n : ℚ) / d := by positivity
  obtain ⟨hle, hlt⟩ := floorLog2_spec n d hn hd
  have hle' := (Int.zpow_le_iff_le_log one_lt_two hpos).mp hle
  have hlt' := (Int.lt_zpow_iff_log_lt one_lt_two hpos).mp hlt
  omega

theorem lastBitExp_congr {n d n' d' : Nat} (hn : n ≠ 0) (hd : d ≠ 0) (hn' : n' ≠ 0) (hd' : d' ≠ 0)
    (h : (n : ℚ) / d = n' / d') : lastBitExp n d = lastBitExp n' d' := by
  rw [lastBitExp, lastBitExp, floorLog2_eq_log n d hn hd, floorLog2_eq_log n' d' hn' hd', h]

theorem significand_congr {n d n' d' : Nat} (hn : n ≠ 0) (hd : d ≠ 0) (hn' : n' ≠ 0) (hd' : d' ≠ 0)
    (h : (n : ℚ) / d = n' / d') : significand n d = significand n' d' := by
  obtain ⟨hden, hval⟩ := scaledBy_value n d (-lastBitExp n d) hd
  obtain ⟨hden', hval'⟩ := scaledBy_value n' d' (-lastBitExp n' d') hd'
  refine roundTiesEven_congr hden hden' ?_
  rw [hval, hval', h, lastBitExp_congr hn hd hn' hd' h]

/-! ## The value of a fraction -/

section
variable {p q : Frac}

theorem ratOf_neg_iff (hd : q.den ≠ 0) : ratOf q < 0 ↔ q.num < 0 := by
  have hpos : (0 : ℚ) < q.den := by positivity
  rw [ratOf, div_lt_iff₀ hpos, zero_mul]
  exact_mod_cast Iff.rfl

theorem ratOf_eq_zero_iff (hd : q.den ≠ 0) : ratOf q = 0 ↔ q.num = 0 := by
  simp [ratOf, hd]

theorem ratOf_le_iff (hp : p.den ≠ 0) (hq : q.den ≠ 0) :
    ratOf p ≤ ratOf q ↔ p.num * q.den ≤ q.num * p.den := by
  have hp0 : (0 : ℚ) < p.den := by positivity
  have hq0 : (0 : ℚ) < q.den := by positivity
  rw [ratOf, ratOf, div_le_div_iff₀ hp0 hq0]
  exact_mod_cast Iff.rfl

theorem abs_ratOf (q : Frac) : |ratOf q| = (q.num.natAbs : ℚ) / q.den := by
  rw [ratOf, abs_div, Nat.abs_cast, Nat.cast_natAbs, Int.cast_abs]

/-! ## `f32` -/

/-- Fractions of the same value round to the same binary32 value. -/
theorem f32_congr (hp : p.den ≠ 0) (hq : q.den ≠ 0) (h : ratOf p = ratOf q) : f32 p = f32 q := by
  by_cases h0 : ratOf p = 0
  · rw [f32_of_num_zero p ((ratOf_eq_zero_iff hp).mp h0),
      f32_of_num_zero q ((ratOf_eq_zero_iff hq).mp (h ▸ h0))]
  · have hpn : p.num ≠ 0 := mt (ratOf_eq_zero_iff hp).mpr h0
    have hqn : q.num ≠ 0 := mt (ratOf_eq_zero_iff hq).mpr (h ▸ h0)
    have hmag : (p.num.natAbs : ℚ) / p.den = q.num.natAbs / q.den := by
      rw [← abs_ratOf, ← abs_ratOf, h]
    have hsign : p.num < 0 ↔ q.num < 0 := by rw [← ratOf_neg_iff hp, ← ratOf_neg_iff hq, h]
    rw [f32_eq p hpn, f32_eq q hqn, significand_congr (by omega) hp (by omega) hq hmag,
      lastBitExp_congr (by omega) hp (by omega) hq hmag]
    simp only [hsign]

/-- A value that binary32 has is not rounded. -/
theorem f32_exact (hq : q.den ≠ 0) (k j : Int) (hk : k.natAbs < 2 ^ 24) (hj : -149 ≤ j)
    (h : ratOf q = k * (2 : ℚ) ^ j) : ratOf (f32 q).value = ratOf q := by
  have hval : ratOf (B32.value ⟨decide (k < 0), k.natAbs, j⟩) = ratOf q := by
    rw [h, ratOf, (B32.value_eq _).2]
    congr 1
    simp only [decide_eq_true_eq, Nat.cast_natAbs]
    split_ifs with hneg
    · rw [abs_of_neg hneg]; simp
    · rw [abs_of_nonneg (not_lt.mp hneg)]; simp
  have hnear := (f32_prefers q hq (y := ⟨decide (k < 0), k.natAbs, j⟩) ⟨hk, hj⟩).1
  rw [hval, sub_self, abs_zero] at hnear
  exact sub_eq_zero.mp (abs_nonpos_iff.mp hnear)

/-- Rounding is monotone: were the results of x < y the other way round, x would not lie below their
midpoint, nor y above it. -/
theorem f32_mono (hp : p.den ≠ 0) (hq : q.den ≠ 0) (h : ratOf p ≤ ratOf q) :
    ratOf (f32 p).value ≤ ratOf (f32 q).value := by
  obtain heq | hlt := h.eq_or_lt
  · rw [f32_congr hp hq heq]
  · by_contra! hgt
    have hnearp := (f32_prefers p hp (f32_binary32 q hq)).1
    have hnearq := (f32_prefers q hq (f32_binary32 p hp)).1
    rw [← sq_le_sq] at hnearp hnearq
    nlinarith

/-- The significand of a number from 2 ^ -126 on has its leading bit. -/
theorem le_significand (n d : Nat) (hn : n ≠ 0) (hd : d ≠ 0) (hlo : -126 ≤ floorLog2 n d) :
    2 ^ 23 ≤ significand n d := by
  have hu : (0 : ℚ) < (2 : ℚ) ^ lastBitExp n d := by positivity
  have hx : (2 : ℚ) ^ 23 * (2 : ℚ) ^ lastBitExp n d ≤ (n : ℚ) / d := by
    calc (2 : ℚ) ^ 23 * (2 : ℚ) ^ lastBitExp n d = (2 : ℚ) ^ (23 + lastBitExp n d) := by
          rw [zpow_add₀ two_ne_zero]; norm_cast
      _ = (2 : ℚ) ^ floorLog2 n d := by congr 1; unfold lastBitExp; omega
      _ ≤ (n : ℚ) / d := (floorLog2_spec n d hn hd).1
  by_contra! hlt
  have hm : significand n d * (2 : ℚ) ^ lastBitExp n d <
      (2 : ℚ) ^ 23 * (2 : ℚ) ^ lastBitExp n d := by
    gcongr; exact_mod_cast hlt
  have hnear := (significand_prefers_multiple n d hd (2 ^ 23)).1
  push_cast at hnear
  rw [abs_of_nonpos (by linarith), abs_of_nonpos (by linarith)] at hnear
  linarith

/-- A number of a normal magnitude rounds to a normal number (R142). -/
theorem f32_normal (hd : q.den ≠ 0) (hlo : (2 : ℚ) ^ (-126 : Int) ≤ |ratOf q|)
    (hhi : |ratOf q| < (2 : ℚ) ^ (127 : Int)) : 2 ^ 23 ≤ (f32 q).mant ∧ (f32 q).exp ≤ 104 := by
  have hpos : 0 < |ratOf q| := lt_of_lt_of_le (by positivity) hlo
  have hn : q.num ≠ 0 := mt (ratOf_eq_zero_iff hd).mpr (abs_pos.mp hpos)
  have hlog := floorLog2_eq_log q.num.natAbs q.den (by omega) hd
  rw [← abs_ratOf] at hlog
  have hlo' : -126 ≤ floorLog2 q.num.natAbs q.den :=
    hlog ▸ (Int.zpow_le_iff_le_log one_lt_two hpos).mp hlo
  have hhi' : floorLog2 q.num.natAbs q.den < 127 :=
    hlog ▸ (Int.lt_zpow_iff_log_lt one_lt_two hpos).mp hhi
  have hm := le_significand q.num.natAbs q.den (by omega) hd hlo'
  have he : lastBitExp q.num.natAbs q.den ≤ 103 := by unfold lastBitExp; omega
  rw [f32_eq q hn]
  split_ifs with hcarry hzero
  · exact ⟨le_rfl, by dsimp only; omega⟩
  · omega
  · exact ⟨hm, by dsimp only; omega⟩

end

/-! ## Encodings of rounded numbers -/

/-- The encoding of +0.0, or one of a normal number (R148). -/
def Ordinary (w : Word32) : Prop :=
  w = 0#32 ∨ (1 ≤ (w.extractLsb' 23 8).toNat ∧ (w.extractLsb' 23 8).toNat ≤ 254)

/-- The value of q is 0 or of a magnitude that rounds to a normal number. -/
def ZeroOrNormal (q : Frac) : Prop :=
  ratOf q = 0 ∨ (2 : ℚ) ^ (-126 : Int) ≤ |ratOf q| ∧ |ratOf q| < (2 : ℚ) ^ (127 : Int)

/-- Every measurement but 0 is rounded from a magnitude between 1/4096 and 4096. -/
theorem zeroOrNormal_of_abs {q : Frac} (hlo : 1 / 4096 ≤ |ratOf q|) (hhi : |ratOf q| ≤ 4096) :
    ZeroOrNormal q := by
  refine .inr ⟨le_trans ?_ hlo, hhi.trans_lt ?_⟩ <;> norm_num

theorem bits32_f32_ordinary {q : Frac} (hd : q.den ≠ 0) (h : ZeroOrNormal q) :
    Ordinary (bits32 (f32 q)) := by
  obtain h0 | ⟨hlo, hhi⟩ := h
  · left
    rw [f32_of_num_zero q ((ratOf_eq_zero_iff hd).mp h0)]
    rfl
  · right
    obtain ⟨hm, he⟩ := f32_normal hd hlo hhi
    have he' := (f32_binary32 q hd).2
    obtain ⟨-, hexp, -⟩ := bits32_fields (f32 q)
    rw [hexp, if_neg (by omega), BitVec.toNat_ofInt]
    omega

/-- The encoding of a rounded number stands for that number. -/
theorem valueOf32_bits32_f32 {q : Frac} (hd : q.den ≠ 0) (h : ZeroOrNormal q) :
    valueOf32 (bits32 (f32 q)) = (f32 q).value := by
  obtain h0 | ⟨hlo, hhi⟩ := h
  · rw [f32_of_num_zero q ((ratOf_eq_zero_iff hd).mp h0)]
    decide
  · obtain ⟨hm, he⟩ := f32_normal hd hlo hhi
    obtain ⟨hm', he'⟩ := f32_binary32 q hd
    exact valueOf32_bits32 (f32 q) hm hm' he' he

end Sys2Proof.Proofs
end

section
/-!
PROOFS. The conversion formulas over the rationals (R143 to R148): a pressure is `f32` of n / 4096
and a temperature `f32` of a sum with 85/2, so that what is known of `f32` bounds both.
-/

namespace Sys2Proof.Proofs

open Sys2Proof.Spec

section
variable {p q : Frac}

/-! ## Integers and quotients of integers -/

/-- `itof` is exact for 24-bit integers (R17). -/
theorem itof_value {i : Int} (hi : i.natAbs < 2 ^ 24) : ratOf (itof i).value = i := by
  rw [itof, f32_exact (by simp) i 0 hi (by norm_num) (by simp [ratOf])]
  simp [ratOf]

/-- Dividing 24-bit integers rounds their quotient once (R17). -/
theorem fdiv_itof {i : Int} {d : Nat} (hi : i.natAbs < 2 ^ 24) (hd : d < 2 ^ 24) (h0 : d ≠ 0) :
    fdiv (itof i) (itof d) = f32 ⟨i, d⟩ := by
  have hval : ratOf (itof d).value = d := by
    have h := itof_value (i := d) (by simpa using hd)
    exact_mod_cast h
  have hnum : (itof d).value.num ≠ 0 := by
    refine mt (ratOf_eq_zero_iff (B32.value_den_ne_zero _)).mpr ?_
    rw [hval]
    exact_mod_cast h0
  refine f32_congr (Frac.div_den_ne_zero (B32.value_den_ne_zero _) hnum) h0 ?_
  calc ratOf ((itof i).value.div (itof d).value)
      = ratOf (itof i).value / ratOf (itof d).value :=
        Frac.div_value (B32.value_den_ne_zero _) (B32.value_den_ne_zero _) hnum
    _ = ratOf ⟨i, d⟩ := by rw [itof_value hi, hval, ratOf]

/-! ## Pressure (R143, R144) -/

theorem pressure_eq_f32 {n : Nat} (hn : n < 2 ^ 24) :
    fdiv (itof n) (itof 4096) = f32 ⟨n, 4096⟩ :=
  fdiv_itof (by simpa using hn) (by norm_num) (by norm_num)

theorem pressure_value {n : Nat} (hn : n < 2 ^ 24) :
    ratOf (fdiv (itof n) (itof 4096)).value = (n : ℚ) / 4096 := by
  rw [pressure_eq_f32 hn, f32_exact (by norm_num) n (-12) (by simpa using hn) (by norm_num)
    (by norm_num [ratOf, div_eq_mul_inv])]
  simp [ratOf]

theorem pressure_zeroOrNormal {n : Nat} (hn : n < 2 ^ 24) : ZeroOrNormal ⟨n, 4096⟩ := by
  obtain rfl | hpos := n.eq_zero_or_pos
  · exact .inl (by simp [ratOf])
  · have h1 : (1 : ℚ) ≤ n := by exact_mod_cast hpos
    have h2 : (n : ℚ) ≤ 16777216 := by exact_mod_cast hn.le
    have habs : |ratOf ⟨n, 4096⟩| = (n : ℚ) / 4096 := by simp [ratOf, abs_div]
    exact zeroOrNormal_of_abs (by rw [habs]; linarith) (by rw [habs]; linarith)

/-! ## Temperature (R145, R146) -/

/-- A quotient as the evaluation m passes it on: rounded, or exact (R146). -/
def evalQuotient (m : TempEval) (q : Frac) : Frac :=
  match m with
  | .stepwiseB32 => (f32 q).value
  | .correctlyRounded => q

theorem evalQuotient_den_ne_zero (m : TempEval) (hq : q.den ≠ 0) : (evalQuotient m q).den ≠ 0 := by
  cases m with
  | stepwiseB32 => exact B32.value_den_ne_zero _
  | correctlyRounded => exact hq

theorem evalQuotient_mono (m : TempEval) (hp : p.den ≠ 0) (hq : q.den ≠ 0)
    (h : ratOf p ≤ ratOf q) : ratOf (evalQuotient m p) ≤ ratOf (evalQuotient m q) := by
  cases m with
  | stepwiseB32 => exact f32_mono hp hq h
  | correctlyRounded => exact h

/-- The 1024ths are binary32 values, so neither evaluation changes them. -/
theorem evalQuotient_1024th (m : TempEval) {k : Int} (hk : k.natAbs < 2 ^ 24) :
    ratOf (evalQuotient m ⟨k, 1024⟩) = k / 1024 := by
  have hval : ratOf ⟨k, 1024⟩ = k / 1024 := rfl
  cases m with
  | stepwiseB32 =>
    exact (f32_exact (by norm_num) k (-10) hk (by norm_num)
      (by norm_num [ratOf, div_eq_mul_inv])).trans hval
  | correctlyRounded => exact hval

/-- The sum that the last rounding of the temperature of t is applied to (R146). -/
def tempSum (m : TempEval) (t : Int) : Frac := (evalQuotient m ⟨t, 480⟩).add ⟨85, 2⟩

theorem tempSum_den_ne_zero (m : TempEval) (t : Int) : (tempSum m t).den ≠ 0 :=
  Frac.add_den_ne_zero (evalQuotient_den_ne_zero m (by norm_num)) (by norm_num)

theorem ratOf_tempSum (m : TempEval) (t : Int) :
    ratOf (tempSum m t) = ratOf (evalQuotient m ⟨t, 480⟩) + 85 / 2 := by
  have h := Frac.add_value (q := ⟨85, 2⟩)
    (evalQuotient_den_ne_zero m (q := ⟨t, 480⟩) (by norm_num)) (by norm_num)
  simpa [ratOf, tempSum] using h

theorem tOffset_value : ratOf tOffset.value = 85 / 2 := by
  rw [tOffset, f32_exact (by norm_num) 85 (-1) (by norm_num) (by norm_num) (by norm_num [ratOf])]
  norm_num [ratOf]

/-- Either evaluation ends by rounding the sum with the exact 85/2. -/
theorem temp_eq_f32 (m : TempEval) {t : Int} (ht : t.natAbs < 2 ^ 24) :
    temp m t = f32 (tempSum m t) := by
  cases m with
  | correctlyRounded => rfl
  | stepwiseB32 =>
    have hdiv : fdiv (itof t) tScale = f32 ⟨t, 480⟩ := fdiv_itof ht (by norm_num) (by norm_num)
    have hquot := B32.value_den_ne_zero (f32 ⟨t, 480⟩)
    have hoffset := B32.value_den_ne_zero tOffset
    rw [temp, hdiv]
    refine f32_congr (Frac.add_den_ne_zero hquot hoffset) (tempSum_den_ne_zero .stepwiseB32 t) ?_
    calc ratOf ((f32 ⟨t, 480⟩).value.add tOffset.value)
        = ratOf (f32 ⟨t, 480⟩).value + ratOf tOffset.value := Frac.add_value hquot hoffset
      _ = ratOf (f32 ⟨t, 480⟩).value + 85 / 2 := by rw [tOffset_value]
      _ = ratOf (tempSum .stepwiseB32 t) := (ratOf_tempSum .stepwiseB32 t).symm

/-- R148: a greater sample gives no lower temperature. -/
theorem temp_mono (m : TempEval) {t u : Int} (ht : t.natAbs < 2 ^ 24) (hu : u.natAbs < 2 ^ 24)
    (h : t ≤ u) : ratOf (temp m t).value ≤ ratOf (temp m u).value := by
  have hquot : ratOf ⟨t, 480⟩ ≤ ratOf ⟨u, 480⟩ :=
    (ratOf_le_iff (by norm_num) (by norm_num)).mpr (by dsimp only; omega)
  have hsum : ratOf (tempSum m t) ≤ ratOf (tempSum m u) := by
    rw [ratOf_tempSum, ratOf_tempSum]
    gcongr
    exact evalQuotient_mono m (by norm_num) (by norm_num) hquot
  rw [temp_eq_f32 m ht, temp_eq_f32 m hu]
  exact f32_mono (tempSum_den_ne_zero m t) (tempSum_den_ne_zero m u) hsum

/-! ## No temperature is subnormal (R148) -/

theorem tempSum_le (m : TempEval) {t k : Int} (hk : k.natAbs < 2 ^ 24) (h : 1024 * t ≤ 480 * k) :
    ratOf (tempSum m t) ≤ (k : ℚ) / 1024 + 85 / 2 := by
  have hquot : ratOf ⟨t, 480⟩ ≤ ratOf ⟨k, 1024⟩ :=
    (ratOf_le_iff (by norm_num) (by norm_num)).mpr (by dsimp only; omega)
  rw [ratOf_tempSum, ← evalQuotient_1024th m hk]
  gcongr
  exact evalQuotient_mono m (by norm_num) (by norm_num) hquot

theorem le_tempSum (m : TempEval) {t k : Int} (hk : k.natAbs < 2 ^ 24) (h : 480 * k ≤ 1024 * t) :
    (k : ℚ) / 1024 + 85 / 2 ≤ ratOf (tempSum m t) := by
  have hquot : ratOf ⟨k, 1024⟩ ≤ ratOf ⟨t, 480⟩ :=
    (ratOf_le_iff (by norm_num) (by norm_num)).mpr (by dsimp only; omega)
  rw [ratOf_tempSum, ← evalQuotient_1024th m hk]
  gcongr
  exact evalQuotient_mono m (by norm_num) (by norm_num) hquot

/-- The sum is 0 at t = -20400, where t / 480 = -43520/1024 = -85/2; any other sample has its
quotient beyond -43522/1024 or -43518/1024. -/
theorem tempSum_zeroOrNormal (m : TempEval) {t : Int} (h1 : -32768 ≤ t) (h2 : t ≤ 32767) :
    ZeroOrNormal (tempSum m t) := by
  have lower := le_tempSum m (t := t) (k := -131072) (by norm_num) (by omega)
  have upper := tempSum_le m (t := t) (k := 131072) (by norm_num) (by omega)
  push_cast at lower upper
  obtain hlt | rfl | hgt := lt_trichotomy t (-20400)
  · have hneg := tempSum_le m (t := t) (k := -43522) (by norm_num) (by omega)
    push_cast at hneg
    have habs := abs_of_neg (show ratOf (tempSum m t) < 0 by linarith)
    exact zeroOrNormal_of_abs (by rw [habs]; linarith) (by rw [habs]; linarith)
  · have hle := tempSum_le m (t := -20400) (k := -43520) (by norm_num) (by norm_num)
    have hge := le_tempSum m (t := -20400) (k := -43520) (by norm_num) (by norm_num)
    push_cast at hle hge
    exact .inl (by linarith)
  · have hpos := le_tempSum m (t := t) (k := -43518) (by norm_num) (by omega)
    push_cast at hpos
    have habs := abs_of_pos (show 0 < ratOf (tempSum m t) by linarith)
    exact zeroOrNormal_of_abs (by rw [habs]; linarith) (by rw [habs]; linarith)

theorem temp_ordinary (m : TempEval) {t : Int} (h1 : -32768 ≤ t) (h2 : t ≤ 32767) :
    Ordinary (bits32 (temp m t)) := by
  rw [temp_eq_f32 m (by omega)]
  exact bits32_f32_ordinary (tempSum_den_ne_zero m t) (tempSum_zeroOrNormal m h1 h2)

end

/-- Settles O38: n and n / 4096 are binary32 values, so neither is rounded. -/
theorem pressureIsExact : Obligations.PressureIsExact := by
  intro n hn
  have hval :
      valueOf32 (bits32 (fdiv (itof n) (itof 4096))) = (fdiv (itof n) (itof 4096)).value := by
    rw [pressure_eq_f32 hn]
    exact valueOf32_bits32_f32 (by norm_num) (pressure_zeroOrNormal hn)
  rw [hval]
  refine ⟨?_, B32.value_den_ne_zero _, pressure_value hn⟩
  have h := itof_value (i := n) (by simpa using hn)
  exact_mod_cast h

/-- Settles O40: what is rounded last is 0 or far above the subnormals. -/
theorem noSpecialMeasurement : Obligations.NoSpecialMeasurement := by
  refine ⟨fun n hn => ?_, fun t h1 h2 => ⟨temp_ordinary _ h1 h2, temp_ordinary _ h1 h2⟩⟩
  rw [pressure_eq_f32 hn]
  exact bits32_f32_ordinary (by norm_num) (pressure_zeroOrNormal hn)

/-- Settles O41: the pressure is n / 4096, and the temperature is monotone in the sample. -/
theorem measurementsStayInRange : Obligations.MeasurementsStayInRange := by
  refine ⟨fun n hn => ?_, fun m t h1 h2 => ?_⟩
  · have hmax : (n : ℚ) ≤ 16777215 := by exact_mod_cast Nat.le_pred_of_lt hn
    rw [pressure_value hn]
    exact ⟨by positivity, by linarith⟩
  · have ht : t.natAbs < 2 ^ 24 := by omega
    exact ⟨temp_mono m (by norm_num) ht h1, temp_mono m ht (by norm_num) h2⟩

/-- Settles O42, by evaluating the two samples. -/
theorem temperatureEvaluationsDiffer : Obligations.TemperatureEvaluationsDiffer := by
  have hval : valueOf32 (bits32 (temp .stepwiseB32 (-20403))) = ⟨-13418496, 2 ^ 31⟩ := by decide
  refine ⟨by decide, by decide, ?_, by decide⟩
  rw [hval]
  norm_num [ratOf]

end Sys2Proof.Proofs
end

section
/-!
PROOFS. The measurement commands (R140 to R146) as whole next states: the raw sample composed in ACC
is the plain sum of its bytes, and the response is computed from it.
-/

namespace Sys2Proof.Machine

open Sys2Proof.Spec

/-! ## The raw samples (R140, R141) -/

/-- Shifting a byte in below a number. -/
theorem shiftLeft_or_zext32 (n : Nat) (b : Byte) :
    BitVec.ofNat 32 n <<< 8 ||| zext32 b = BitVec.ofNat 32 (n * 256 + b.toNat) := by
  have hshift : BitVec.ofNat 32 n <<< 8 = BitVec.ofNat 32 (n <<< 8) :=
    BitVec.eq_of_toNat_eq (by simp [Nat.shiftLeft_eq])
  rw [hshift, zext32, ← BitVec.ofNat_toNat, ← BitVec.ofNat_or,
    ← Nat.shiftLeft_add_eq_or_of_lt b.isLt, Nat.shiftLeft_eq]

theorem zext32_eq_ofNat (b : Byte) : zext32 b = BitVec.ofNat 32 b.toNat :=
  (BitVec.ofNat_toNat 32 b).symm

theorem assembleTemperature_eq (h l : Byte) :
    assembleTemperature h l = BitVec.ofNat 32 (h.toNat * 256 + l.toNat) := by
  rw [assembleTemperature, zext32_eq_ofNat h, shiftLeft_or_zext32]

/-- The mask of R140 takes nothing from a sum of three bytes. -/
theorem assemblePressure_eq (b2 b1 b0 : Byte) :
    assemblePressure b2 b1 b0 =
      BitVec.ofNat 32 (b2.toNat * 65536 + b1.toNat * 256 + b0.toNat) := by
  have hsum : (b2.toNat * 256 + b1.toNat) * 256 + b0.toNat =
      b2.toNat * 65536 + b1.toNat * 256 + b0.toNat := by ring
  have hlt : b2.toNat * 65536 + b1.toNat * 256 + b0.toNat < 2 ^ 24 := by omega
  rw [assemblePressure, BitVec.shiftLeft_add _ 8 8, ← BitVec.shiftLeft_or_distrib,
    zext32_eq_ofNat b2, shiftLeft_or_zext32, shiftLeft_or_zext32, hsum]
  generalize b2.toNat * 65536 + b1.toNat * 256 + b0.toNat = n at hlt ⊢
  calc BitVec.ofNat 32 n &&& 0x00FFFFFF#32 = BitVec.ofNat 32 (n &&& 2 ^ 24 - 1) :=
        BitVec.ofNat_and.symm
    _ = BitVec.ofNat 32 n := by rw [Nat.and_two_pow_sub_one_eq_mod, Nat.mod_eq_of_lt hlt]

/-- The low 16 bits as two's complement (R141). -/
theorem s16_ofNat {n : Nat} (hn : n < 65536) :
    s16 (BitVec.ofNat 32 n) = if n < 32768 then (n : Int) else (n : Int) - 65536 := by
  have hlow : ((BitVec.ofNat 32 n).extractLsb' 0 16).toNat = n := by
    rw [BitVec.extractLsb'_toNat, BitVec.toNat_ofNat, Nat.shiftRight_zero]
    omega
  rw [s16, BitVec.toInt_eq_toNat_cond, hlow]
  split_ifs <;> omega

/-! ## The commands (R143, R145) -/

theorem pressureFrame_length (s : State) : (pressureFrame s).length = 3 * readActions s.mode := by
  simp only [pressureFrame, List.length_append, readFrame_length]
  ring

theorem temperatureFrame_length (s : State) :
    (temperatureFrame s).length = 2 * readActions s.mode := by
  simp only [temperatureFrame, List.length_append, readFrame_length]
  ring

/-- What GET_PRESSURE leaves, its response posted (R143). -/
theorem exec_getPressure {s : State} {n : Nat} (pass : check .getPressure s.mode = none)
    (hc : s.completes (3 * readActions s.mode) = true)
    (hn : (s.byteAt 0).toNat * 65536 + (s.byteAt 1).toNat * 256 + (s.byteAt 2).toNat = n) :
    exec .getPressure s =
      .next { replied s (pressureFrame s) 3 (3 * readActions s.mode) .f32 (bits32 (pressure n)) with
        tmp := s.byteAt 2, acc := BitVec.ofNat 32 n } := by
  have hraw : (BitVec.ofNat 32 n).toNat = n := by
    rw [BitVec.toNat_ofNat]
    omega
  rw [(pressure_command pass).responds (by rwa [pressureFrame_length]), assemblePressure_eq, hn,
    hraw, ← pressureFrame_length]
  rfl

/-- What GET_TEMPERATURE leaves, its response posted (R145). -/
theorem exec_getTemperature {s : State} {n : Nat} (pass : check .getTemperature s.mode = none)
    (hc : s.completes (2 * readActions s.mode) = true)
    (hn : (s.byteAt 0).toNat * 256 + (s.byteAt 1).toNat = n) :
    exec .getTemperature s =
      .next { replied s (temperatureFrame s) 2 (2 * readActions s.mode) .f32
          (bits32 (temp s.cfg.tempEval (if n < 32768 then (n : Int) else (n : Int) - 65536))) with
        tmp := s.byteAt 1, acc := BitVec.ofNat 32 n } := by
  rw [(temperature_command pass).responds (by rwa [temperatureFrame_length]),
    assembleTemperature_eq, hn, s16_ofNat (by omega), ← temperatureFrame_length]
  rfl

end Sys2Proof.Machine

namespace Sys2Proof.Proofs

open Sys2Proof.Machine

/-- Settles O30: the three bytes compose to their plain sum, below 2 ^ 24. -/
theorem getPressureAnswersTheScaledSample : Obligations.GetPressureAnswersTheScaledSample := by
  refine commandRule_of (fun _ _ => decode_cmdWord (i := .getPressure)) (fun _ _ => rfl)
    (fun _ _ => rfl) fun _ _ s pass hc => ?_
  rw [exec_getPressure pass hc rfl, pressureFrame, ← List.append_assoc]
  rfl

/-- Settles O31: the two bytes compose to their plain sum, read as 16-bit two's complement. -/
theorem getTemperatureAnswersTheScaledSample :
    Obligations.GetTemperatureAnswersTheScaledSample := by
  refine commandRule_of (fun _ _ => decode_cmdWord (i := .getTemperature)) (fun _ _ => rfl)
    (fun _ _ => rfl) fun _ _ s pass hc => ?_
  rw [exec_getTemperature pass hc rfl]
  cases s.cfg.tempEval <;> rfl

end Sys2Proof.Proofs
end

section
/-!
PROOFS. The exceptions (R160 to R170): which commands take a fault and that a command without one
leaves the fault record (R163 to R166), the illegal word (R162), the faulted PCBS (R168), and the
false DEFAULT_CONFIG result (R170).
-/

namespace Sys2Proof.Machine

open Sys2Proof.Spec

section
variable {i : Instr} {w : CmdWord} {s s0 t u : State} {m : Flow} {evs es : List Event}
  {kind : RspKind} {data : Word32} {rest : List Input}

/-! ## The fault record of a command that passes its check (R29, R167) -/

/-- The parts of the fault record (R29). -/
def SameFaultRecord (s t : State) : Prop :=
  t.fault = s.fault ∧ t.faultCode = s.faultCode ∧ t.faultCmd = s.faultCmd

/-- Inside a command, before its response. -/
theorem Command.keeps_faultRecord (ran : Command i s s0 t m evs kind data)
    (advanced : Advanced s0 u es) : SameFaultRecord s u := by
  obtain ⟨mode, slave, rfl⟩ := ran.bound
  exact ⟨advanced.agree.fault, advanced.agree.faultCode, advanced.agree.faultCmd⟩

/-- A command that passes its check, responding or waiting, leaves the fault record. -/
theorem Command.exec_keeps_faultRecord (ran : Command i s s0 t m evs kind data)
    (h : exec i s = .next u) : SameFaultRecord s u := by
  by_cases hc : s0.completes evs.length = true
  · cases (ran.responds hc).symm.trans h
    have hbody : SameFaultRecord s t := ran.keeps_faultRecord ran.does.advanced
    exact hbody
  · obtain ⟨k, hk, hlt⟩ := (not_completes_iff s0 _).mp (by simpa using hc)
    obtain ⟨v, hexec, -, advanced⟩ := ran.waits (ran.stall_eq.symm.trans hk) hlt
    cases hexec.symm.trans h
    exact ran.keeps_faultRecord advanced

/-! ## The illegal word (R162) -/

theorem decode_of_not_mem_opcodes (h : opcOf w ∉ opcodes) :
    decode w = .error (.illegalOpcode (opcOf w)) := by
  obtain ⟨i, hi, -⟩ | ⟨hrej, -⟩ := decode_cases w
  · exact absurd (opcOf_mem_opcodes_of_decode hi) h
  · exact hrej

/-! ## The faulted PCBS (R168) -/

/-- While FAULT = 1 a command is left pending. -/
theorem step_of_pending (hf : s.fault = true) (hin : s.inputs = .command w :: rest) :
    step s = .next s :=
  step_of_nothing (by simp [offered, hin, hf])

/-- While FAULT = 1 nothing but a power-on and the taking of a response can happen. -/
theorem Moves.of_fault (moves : Moves s t) (hf : s.fault = true)
    (hp : ∀ rest, s.inputs ≠ .powerOn :: rest) : t = s ∨ t = Machine.takeResponse s := by
  have hbad : ¬ s.good := fun ⟨_, hclear⟩ => by simp [hf] at hclear
  cases moves with
  | stays => exact .inl rfl
  | powersOn rest head => exact absurd head (hp rest)
  | takes => exact .inr rfl
  | faults _ _ good => exact absurd good hbad
  | responds good => exact absurd good hbad
  | waits good => exact absurd good hbad

/-! ## The result of DEFAULT_CONFIG (R123, R170) -/

/-- FAIL is set by DEFAULT_CONFIG exactly when one of the four bytes read mismatches (R123). -/
theorem defaultConfigFail_iff (s : State) :
    defaultConfigFail s = true ↔ s.byteAt 0 ≠ 0x78#8 ∨ s.byteAt 1 ≠ 0x74#8 ∨
      s.byteAt 2 ≠ 0xF4#8 ∨ s.byteAt 3 ≠ 0xBB#8 := by
  simp [defaultConfigFail_eq, or_assoc]

end

end Sys2Proof.Machine

namespace Sys2Proof.Proofs

open Sys2Proof.Machine

/-- Settles O13: the check picks the fault, and a command it lets through writes none. -/
theorem checksRaiseTheirFaults : Obligations.ChecksRaiseTheirFaults := by
  refine fun i s => ⟨fun hi hm => ?_, fun hi hm => ?_, ?_, fun hpass t hexec => ?_⟩
  · exact exec_eq_faulted (check_of_init ((isInit_iff i).mpr hi) hm)
  · have hinit : isInit i = false := by simpa [← isInit_iff] using hi
    exact exec_eq_faulted (hm ▸ check_of_uninit hinit)
  · rintro m rfl h3 h4 hm
    exact exec_eq_faulted (check_spiIfMode_bad hm h3 h4)
  · obtain ⟨_, _, _, _, _, _, ran⟩ := command_of_passes hpass
    exact ran.exec_keeps_faultRecord hexec

/-- Settles O7: the decoder rejects the word, and the fault entry follows its acceptance. -/
theorem illegalOpcodeFaultsInAnyMode : Obligations.IllegalOpcodeFaultsInAnyMode := by
  intro s w rest hb hf hin hopc
  rw [step_of_illegal ⟨hb, hf⟩ hin (decode_of_not_mem_opcodes hopc)]
  simp [raiseFault, accept, hin, hb]

/-- Settles O11: a faulted PCBS stays as it is, but for a response taken, until power-on. -/
theorem faultIsStickyUntilReset : Obligations.FaultIsStickyUntilReset := by
  refine fun s hf => ⟨fun w rest hin => step_of_pending hf hin, fun t hstep hp => ?_,
    fun rest hin => ⟨_, step_of_powerOn hin, rfl⟩⟩
  obtain rfl | rfl := (Moves.of_step hstep).of_fault hf hp
  · exact ⟨hf, rfl, rfl, rfl, rfl⟩
  · exact ⟨hf, rfl, rfl, rfl, rfl⟩

/-- Settles O12: `step_moves` lists the next states. -/
theorem everyStepHasANextState : Obligations.EveryStepHasANextState := by
  intro s
  obtain ⟨t, hstep, -⟩ := step_moves s
  exact ⟨t, hstep⟩

/-- Settles O29: the response leaves an idle PCBS without a fault, which accepts the next word. -/
theorem falseDefaultConfigIsNoFault : Obligations.FalseDefaultConfigIsNoFault := by
  intro s hm hf hc hmiss
  have hfail : defaultConfigFail s = true := (defaultConfigFail_iff s).mpr hmiss
  refine ⟨_, exec_defaultConfig (check_eq_none rfl rfl hm) hc, rfl, rfl, ?_, ⟨rfl, hf⟩, ?_⟩
  · exact congrArg boolResult hfail
  · exact fun w rest i hin hd =>
      stepAcceptsAndRunsTheDecodedCommand _ w rest i rfl hf hin hd

end Sys2Proof.Proofs
end

section
/-!
PROOFS. The bus actions of every command (R200), power-on reset (R185), and the hazards of the mode
commands (R192 to R194), which are read off the rate field and bit 0 of the byte written.
-/

namespace Sys2Proof.Machine

/-! ## The rate field, bits 6:4 of CTRL_REG1 (R108) -/

/-- SET_ODR leaves its rate modulo 8 in the rate field, whatever the byte read. -/
theorem fSetOdr_rate (r t : Byte) :
    (fSetOdr r t).extractLsb' 4 3 = BitVec.ofNat 3 (r.toNat % 8) := by
  have cleared : (t &&& 0x8F#8).extractLsb' 4 3 = 0#3 :=
    BitVec.extractLsb'_and.trans BitVec.and_zero
  rw [fSetOdr, BitVec.extractLsb'_or, cleared, BitVec.zero_or, odrField_eq_mod]
  apply BitVec.eq_of_toNat_eq
  simp only [BitVec.extractLsb'_toNat, BitVec.toNat_ofNat, Nat.shiftRight_eq_div_pow]
  omega

/-- SPI_IF_MODE 4 clears the lowest bit of the rate field (R115). -/
theorem fSpiIf4_rate (t : Byte) : (fSpiIf4 t).extractLsb' 4 3 = t.extractLsb' 4 3 &&& 6#3 :=
  BitVec.extractLsb'_and

/-- A rate without its lowest bit is the even one below it. -/
theorem rate_and_six (n : Nat) :
    BitVec.ofNat 3 (n % 8) &&& 6#3 = BitVec.ofNat 3 (n % 8 - n % 2) := by
  have evens : ∀ k < 8, BitVec.ofNat 3 k &&& 6#3 = BitVec.ofNat 3 (k - k % 2) := by decide
  have hlow : n % 8 % 2 = n % 2 := Nat.mod_mod_of_dvd n (by decide)
  rw [evens _ (Nat.mod_lt n (by decide)), hlow]

end Sys2Proof.Machine

namespace Sys2Proof.Proofs

open Sys2Proof.Machine

/-- Settles O15: a command's bus actions stand in the trace before its response, and the rows of
R200's table are evaluated. -/
theorem commandsIssueTheirBusActions : Obligations.CommandsIssueTheirBusActions := by
  refine ⟨fun i s hpass hc => ?_, by decide⟩
  obtain ⟨s0, t, m, evs, kind, data, ran⟩ := command_of_passes hpass
  have hcount : countBus evs = busActions i s.mode := (countBus_of_onBus ran.onBus).trans ran.count
  rw [← ran.count] at hc
  obtain ⟨mode, slave, rfl⟩ := ran.bound
  obtain ⟨-, htrace, -, hstall⟩ := ran.does.advanced
  refine ⟨_, ran.responds hc, ?_, hstall.trans (by rw [ran.count]), rfl, rfl, rfl, ?_⟩
  · rw [responded_trace, htrace, countBus_append, countBus_append, hcount]
    rfl
  · rw [responded_trace, List.getLast?_concat, responded_rspKind, responded_rspData]

/-- Settles O8: the state after power-on is idle and without a fault, so it accepts the word next
in line. -/
theorem powerOnLeavesTheResetValues : Obligations.PowerOnLeavesTheResetValues := by
  intro s rest hin
  have htail : (powerOn s).inputs = rest := by rw [powerOn_inputs, hin, List.tail_cons]
  refine ⟨powerOn s, step_of_powerOn hin, htail,
    rfl, rfl, rfl, rfl, rfl, rfl, rfl, rfl, rfl, rfl, rfl, rfl, fun w more i hrest hd => ?_⟩
  exact stepAcceptsAndRunsTheDecodedCommand _ w more i rfl rfl (htail.trans hrest) hd

/-- Settles O35: SET_ODR's rate does not depend on the byte read, SPI_IF_MODE 4 clears the rate's
lowest bit and no other, and an OR clears none. -/
theorem modeCommandsHaveTheirHazards : Obligations.ModeCommandsHaveTheirHazards := by
  refine fun t r v => ⟨?_, fSetOdr_rate r _, ?_, or_and_absorb t _, or_and_absorb t v⟩
  · rw [fSpiIf4_rate, fSetOdr_rate, rate_and_six]
  · simp [fSpiIf4, fSpiIf3]

end Sys2Proof.Proofs
end
